-- ==== Sys2Proof/Word.lean ====
section
/-! DEFINITION. The word types of the machine: an 8-bit data path and a 16-bit address path
(spec 00_scope.md rule R8, data width and address width). -/

namespace Sys2Proof

/-- The data width: A, X, Y, S, every register of a chip and every bus transfer (rules R8, R106). -/
abbrev Byte := BitVec 8

/-- The address width: PC and the bus address; every value is a valid address (rules R8, R100, R101). -/
abbrev Addr := BitVec 16

end Sys2Proof
end

