-- ==== Sys2Proof/Syntax.lean ====
section
/-! DEFINITION. The instructions: one constructor per instruction rule of the spec (R300 to R456), its argument the
addressing mode. Each row of spec/opcode_table.json is one value of `Instr`: the row's mnemonic is the constructor and
the row's mode its argument (JAM, ANC and the undocumented NOPs, which have several rows in one mode, carry the opcode
byte). Operand BYTES are no part of an instruction: the opcode byte alone selects operation and mode (rules R170, R175),
and the operand bytes are read over the bus in later cycles (rule R171, rules R181 to R189). -/

namespace Sys2Proof

/-- Modes of the accumulator read instructions LDA ORA AND EOR ADC SBC CMP (rule R171). -/
inductive AluMode where
  | imm | zp | zpx | abs | absx | absy | izx | izy
deriving DecidableEq, Repr

/-- Modes of STA and of the combined read-modify-write instructions SLO RLA SRE RRA DCP ISC (rules R303, R435 to R442). -/
inductive StoreMode where
  | zp | zpx | abs | absx | absy | izx | izy
deriving DecidableEq, Repr

/-- Modes of LDX (rule R301). -/
inductive LdxMode where
  | imm | zp | zpy | abs | absy
deriving DecidableEq, Repr

/-- Modes of LDY (rule R302). -/
inductive LdyMode where
  | imm | zp | zpx | abs | absx
deriving DecidableEq, Repr

/-- Modes of STX (rule R304). -/
inductive StxMode where
  | zp | zpy | abs
deriving DecidableEq, Repr

/-- Modes of STY (rule R305). -/
inductive StyMode where
  | zp | zpx | abs
deriving DecidableEq, Repr

/-- Modes of CPX and CPY (rules R351, R352). -/
inductive CpxMode where
  | imm | zp | abs
deriving DecidableEq, Repr

/-- Modes of BIT (rule R353). -/
inductive BitMode where
  | zp | abs
deriving DecidableEq, Repr

/-- Modes of INC and DEC (rules R354, R355). -/
inductive IncMode where
  | zp | zpx | abs | absx
deriving DecidableEq, Repr

/-- Modes of ASL LSR ROL ROR (rules R380 to R383). -/
inductive ShiftMode where
  | acc | zp | zpx | abs | absx
deriving DecidableEq, Repr

/-- Modes of JMP (rule R399). -/
inductive JmpMode where
  | abs | ind
deriving DecidableEq, Repr

/-- Modes of the undocumented NOPs (rule R434). -/
inductive NopMode where
  | imp | imm | zp | zpx | abs | absx
deriving DecidableEq, Repr

/-- Modes of SAX (rule R439). -/
inductive SaxMode where
  | zp | zpy | abs | izx
deriving DecidableEq, Repr

/-- Modes of LAX (rule R440). -/
inductive LaxMode where
  | zp | zpy | abs | absy | izx | izy
deriving DecidableEq, Repr

/-- Modes of SHA (rule R451). -/
inductive ShaMode where
  | izy | absy
deriving DecidableEq, Repr

/-- The instructions of spec/opcode_table.json, one constructor per mnemonic and rule (log entry 1). -/
inductive Instr where
  -- 40_load_store.md
  | lda (m : AluMode) | ldx (m : LdxMode) | ldy (m : LdyMode)
  | sta (m : StoreMode) | stx (m : StxMode) | sty (m : StyMode)
  -- 41_transfer_stack.md
  | tax | tay | txa | tya | tsx | txs | pha | php | pla | plp
  -- 42_arithmetic_logic.md
  | adc (m : AluMode) | sbc (m : AluMode) | and (m : AluMode) | ora (m : AluMode) | eor (m : AluMode)
  | cmp (m : AluMode) | cpx (m : CpxMode) | cpy (m : CpxMode) | bit (m : BitMode)
  | inc (m : IncMode) | dec (m : IncMode) | inx | iny | dex | dey
  -- 43_shift_rotate.md
  | asl (m : ShiftMode) | lsr (m : ShiftMode) | rol (m : ShiftMode) | ror (m : ShiftMode)
  -- 44_control_transfer.md
  | bpl | bmi | bvc | bvs | bcc | bcs | bne | beq
  | jmp (m : JmpMode) | jsr | rts | brk | rti
  -- 45_flags_and_nop.md
  | clc | sec | cli | sei | cld | sed | clv | nop
  -- 46_undocumented_and_trap.md
  | jam (op : Byte) | nopUndoc (m : NopMode) (op : Byte)
  | slo (m : StoreMode) | rla (m : StoreMode) | sre (m : StoreMode) | rra (m : StoreMode)
  | sax (m : SaxMode) | lax (m : LaxMode) | dcp (m : StoreMode) | isc (m : StoreMode)
  | anc (op : Byte) | alr | arr | sbx | usbc | las | ane | lxa
  | sha (m : ShaMode) | shx | shy | tas
  | trap
deriving DecidableEq, Repr

/-- An instruction as it stands in memory: the instruction its first byte selects and the operand bytes after it, in
address order (rule R171). -/
structure Code where
  instr : Instr
  operands : List Byte
deriving DecidableEq, Repr

end Sys2Proof
end

