-- ==== Sys2Proof/WellFormed.lean ====
section
/-! DEFINITION. What makes an instruction well formed. Modes are typed, so the checks are: the opcode byte carried by
JAM, ANC or an undocumented NOP is one of the opcodes its rule lists (rules R433, R434, R443), and an instruction in
memory has as many operand bytes as its mode takes (rule R171). -/

namespace Sys2Proof

/-- The twelve JAM opcodes (rule R433). -/
def jamOpcodes : List Byte :=
  [0x02, 0x12, 0x22, 0x32, 0x42, 0x52, 0x62, 0x72, 0x92, 0xB2, 0xD2, 0xF2]

/-- The opcodes of the undocumented NOPs, by mode (rule R434). -/
def nopOpcodes : NopMode → List Byte
  | .imp => [0x1A, 0x3A, 0x5A, 0x7A, 0xDA, 0xFA]
  | .imm => [0x80, 0x82, 0x89, 0xC2, 0xE2]
  | .zp => [0x04, 0x44, 0x64]
  | .zpx => [0x14, 0x34, 0x54, 0x74, 0xD4, 0xF4]
  | .abs => [0x0C]
  | .absx => [0x1C, 0x3C, 0x5C, 0x7C, 0xDC, 0xFC]

/-- The two ANC opcodes (rule R443). -/
def ancOpcodes : List Byte := [0x0B, 0x2B]

/-- An instruction is well formed when the opcode byte it carries, if any, is one its rule lists. -/
def Instr.wellFormed : Instr → Bool
  | .jam op => jamOpcodes.contains op
  | .nopUndoc m op => (nopOpcodes m).contains op
  | .anc op => ancOpcodes.contains op
  | _ => true

def AluMode.operandBytes : AluMode → Nat
  | .abs | .absx | .absy => 2
  | .imm | .zp | .zpx | .izx | .izy => 1

def StoreMode.operandBytes : StoreMode → Nat
  | .abs | .absx | .absy => 2
  | .zp | .zpx | .izx | .izy => 1

def LdxMode.operandBytes : LdxMode → Nat
  | .abs | .absy => 2
  | .imm | .zp | .zpy => 1

def LdyMode.operandBytes : LdyMode → Nat
  | .abs | .absx => 2
  | .imm | .zp | .zpx => 1

def StxMode.operandBytes : StxMode → Nat
  | .abs => 2
  | .zp | .zpy => 1

def StyMode.operandBytes : StyMode → Nat
  | .abs => 2
  | .zp | .zpx => 1

def CpxMode.operandBytes : CpxMode → Nat
  | .abs => 2
  | .imm | .zp => 1

def BitMode.operandBytes : BitMode → Nat
  | .abs => 2
  | .zp => 1

def IncMode.operandBytes : IncMode → Nat
  | .abs | .absx => 2
  | .zp | .zpx => 1

def ShiftMode.operandBytes : ShiftMode → Nat
  | .acc => 0
  | .abs | .absx => 2
  | .zp | .zpx => 1

def NopMode.operandBytes : NopMode → Nat
  | .imp => 0
  | .abs | .absx => 2
  | .imm | .zp | .zpx => 1

def SaxMode.operandBytes : SaxMode → Nat
  | .abs => 2
  | .zp | .zpy | .izx => 1

def LaxMode.operandBytes : LaxMode → Nat
  | .abs | .absy => 2
  | .zp | .zpy | .izx | .izy => 1

def ShaMode.operandBytes : ShaMode → Nat
  | .absy => 2
  | .izy => 1

/-- How many operand bytes follow the opcode byte (rule R171; BRK's skipped byte counts, rule R187). -/
def Instr.operandBytes : Instr → Nat
  | .lda m | .adc m | .sbc m | .and m | .ora m | .eor m | .cmp m => m.operandBytes
  | .ldx m => m.operandBytes
  | .ldy m => m.operandBytes
  | .sta m | .slo m | .rla m | .sre m | .rra m | .dcp m | .isc m => m.operandBytes
  | .stx m => m.operandBytes
  | .sty m => m.operandBytes
  | .tax | .tay | .txa | .tya | .tsx | .txs | .pha | .php | .pla | .plp => 0
  | .cpx m | .cpy m => m.operandBytes
  | .bit m => m.operandBytes
  | .inc m | .dec m => m.operandBytes
  | .inx | .iny | .dex | .dey => 0
  | .asl m | .lsr m | .rol m | .ror m => m.operandBytes
  | .bpl | .bmi | .bvc | .bvs | .bcc | .bcs | .bne | .beq => 1
  | .jmp _ | .jsr => 2
  | .rts | .rti => 0
  | .brk => 1
  | .clc | .sec | .cli | .sei | .cld | .sed | .clv | .nop => 0
  | .jam _ => 0
  | .nopUndoc m _ => m.operandBytes
  | .sax m => m.operandBytes
  | .lax m => m.operandBytes
  | .anc _ | .alr | .arr | .sbx | .usbc | .ane | .lxa => 1
  | .las | .shx | .shy | .tas => 2
  | .sha m => m.operandBytes
  | .trap => 0

/-- An instruction in memory is well formed when its instruction is and it has the operand bytes its mode takes. -/
def Code.wellFormed (c : Code) : Bool :=
  c.instr.wellFormed && c.operands.length == c.instr.operandBytes

end Sys2Proof
end

