-- ==== Sys2Proof/Decode.lean ====
section
/-! DEFINITION. The opcode map (rule R200), the decoder and the encoder. The decoder is a 256-entry table, written row
by row from rule R200; the encoder is written from the Encoding line of each instruction's own rule (R300 to R454), so
that their agreement checks the one against the other. -/

namespace Sys2Proof

/-- Row 0x of the opcode map (rule R200). -/
def opcodeRow0 : List Instr :=
  [.brk, .ora .izx, .jam 0x02, .slo .izx, .nopUndoc .zp 0x04, .ora .zp, .asl .zp, .slo .zp,
   .php, .ora .imm, .asl .acc, .anc 0x0B, .nopUndoc .abs 0x0C, .ora .abs, .asl .abs, .slo .abs]

/-- Row 1x of the opcode map (rule R200). -/
def opcodeRow1 : List Instr :=
  [.bpl, .ora .izy, .jam 0x12, .slo .izy, .nopUndoc .zpx 0x14, .ora .zpx, .asl .zpx, .slo .zpx,
   .clc, .ora .absy, .nopUndoc .imp 0x1A, .slo .absy, .nopUndoc .absx 0x1C, .ora .absx, .asl .absx, .slo .absx]

/-- Row 2x of the opcode map (rule R200). -/
def opcodeRow2 : List Instr :=
  [.jsr, .and .izx, .jam 0x22, .rla .izx, .bit .zp, .and .zp, .rol .zp, .rla .zp,
   .plp, .and .imm, .rol .acc, .anc 0x2B, .bit .abs, .and .abs, .rol .abs, .rla .abs]

/-- Row 3x of the opcode map (rule R200). -/
def opcodeRow3 : List Instr :=
  [.bmi, .and .izy, .jam 0x32, .rla .izy, .nopUndoc .zpx 0x34, .and .zpx, .rol .zpx, .rla .zpx,
   .sec, .and .absy, .nopUndoc .imp 0x3A, .rla .absy, .nopUndoc .absx 0x3C, .and .absx, .rol .absx, .rla .absx]

/-- Row 4x of the opcode map (rule R200). -/
def opcodeRow4 : List Instr :=
  [.rti, .eor .izx, .jam 0x42, .sre .izx, .nopUndoc .zp 0x44, .eor .zp, .lsr .zp, .sre .zp,
   .pha, .eor .imm, .lsr .acc, .alr, .jmp .abs, .eor .abs, .lsr .abs, .sre .abs]

/-- Row 5x of the opcode map (rule R200). -/
def opcodeRow5 : List Instr :=
  [.bvc, .eor .izy, .jam 0x52, .sre .izy, .nopUndoc .zpx 0x54, .eor .zpx, .lsr .zpx, .sre .zpx,
   .cli, .eor .absy, .nopUndoc .imp 0x5A, .sre .absy, .nopUndoc .absx 0x5C, .eor .absx, .lsr .absx, .sre .absx]

/-- Row 6x of the opcode map (rule R200). -/
def opcodeRow6 : List Instr :=
  [.rts, .adc .izx, .jam 0x62, .rra .izx, .nopUndoc .zp 0x64, .adc .zp, .ror .zp, .rra .zp,
   .pla, .adc .imm, .ror .acc, .arr, .jmp .ind, .adc .abs, .ror .abs, .rra .abs]

/-- Row 7x of the opcode map (rule R200). -/
def opcodeRow7 : List Instr :=
  [.bvs, .adc .izy, .jam 0x72, .rra .izy, .nopUndoc .zpx 0x74, .adc .zpx, .ror .zpx, .rra .zpx,
   .sei, .adc .absy, .nopUndoc .imp 0x7A, .rra .absy, .nopUndoc .absx 0x7C, .adc .absx, .ror .absx, .rra .absx]

/-- Row 8x of the opcode map (rule R200). -/
def opcodeRow8 : List Instr :=
  [.nopUndoc .imm 0x80, .sta .izx, .nopUndoc .imm 0x82, .sax .izx, .sty .zp, .sta .zp, .stx .zp, .sax .zp,
   .dey, .nopUndoc .imm 0x89, .txa, .ane, .sty .abs, .sta .abs, .stx .abs, .sax .abs]

/-- Row 9x of the opcode map (rule R200). -/
def opcodeRow9 : List Instr :=
  [.bcc, .sta .izy, .jam 0x92, .sha .izy, .sty .zpx, .sta .zpx, .stx .zpy, .sax .zpy,
   .tya, .sta .absy, .txs, .tas, .shy, .sta .absx, .shx, .sha .absy]

/-- Row Ax of the opcode map (rule R200). -/
def opcodeRowA : List Instr :=
  [.ldy .imm, .lda .izx, .ldx .imm, .lax .izx, .ldy .zp, .lda .zp, .ldx .zp, .lax .zp,
   .tay, .lda .imm, .tax, .lxa, .ldy .abs, .lda .abs, .ldx .abs, .lax .abs]

/-- Row Bx of the opcode map (rule R200). -/
def opcodeRowB : List Instr :=
  [.bcs, .lda .izy, .jam 0xB2, .lax .izy, .ldy .zpx, .lda .zpx, .ldx .zpy, .lax .zpy,
   .clv, .lda .absy, .tsx, .las, .ldy .absx, .lda .absx, .ldx .absy, .lax .absy]

/-- Row Cx of the opcode map (rule R200). -/
def opcodeRowC : List Instr :=
  [.cpy .imm, .cmp .izx, .nopUndoc .imm 0xC2, .dcp .izx, .cpy .zp, .cmp .zp, .dec .zp, .dcp .zp,
   .iny, .cmp .imm, .dex, .sbx, .cpy .abs, .cmp .abs, .dec .abs, .dcp .abs]

/-- Row Dx of the opcode map (rule R200). -/
def opcodeRowD : List Instr :=
  [.bne, .cmp .izy, .jam 0xD2, .dcp .izy, .nopUndoc .zpx 0xD4, .cmp .zpx, .dec .zpx, .dcp .zpx,
   .cld, .cmp .absy, .nopUndoc .imp 0xDA, .dcp .absy, .nopUndoc .absx 0xDC, .cmp .absx, .dec .absx, .dcp .absx]

/-- Row Ex of the opcode map (rule R200). -/
def opcodeRowE : List Instr :=
  [.cpx .imm, .sbc .izx, .nopUndoc .imm 0xE2, .isc .izx, .cpx .zp, .sbc .zp, .inc .zp, .isc .zp,
   .inx, .sbc .imm, .nop, .usbc, .cpx .abs, .sbc .abs, .inc .abs, .isc .abs]

/-- Row Fx of the opcode map (rule R200). -/
def opcodeRowF : List Instr :=
  [.beq, .sbc .izy, .jam 0xF2, .isc .izy, .nopUndoc .zpx 0xF4, .sbc .zpx, .inc .zpx, .isc .zpx,
   .sed, .sbc .absy, .nopUndoc .imp 0xFA, .isc .absy, .nopUndoc .absx 0xFC, .sbc .absx, .inc .absx, .isc .absx]

/-- The opcode map of rule R200: sixteen rows of sixteen instructions. -/
def opcodeMap : List (List Instr) :=
  [opcodeRow0, opcodeRow1, opcodeRow2, opcodeRow3, opcodeRow4, opcodeRow5, opcodeRow6, opcodeRow7] ++
  [opcodeRow8, opcodeRow9, opcodeRowA, opcodeRowB, opcodeRowC, opcodeRowD, opcodeRowE, opcodeRowF]

/-- The instruction an opcode byte selects; total on the 256 byte values (rules R175, R201). The TRAP pseudo-opcode is
not a byte: `fetchedInstr` selects it (rule R203; log entry 16). -/
def decodeOpcode (b : Byte) : Instr :=
  ((opcodeMap.getD (b.toNat / 16) []).getD (b.toNat % 16) .nop)

/-- Why a byte string holds no instruction: no byte value is refused (rule R201), so only a string that ends early is. -/
inductive DecodeError where
  | noOpcode
  | operandsMissing (opcode : Byte)
deriving DecidableEq, Repr

/-- Reads one instruction from a byte string and answers it with the rest of the string (rules R170, R171). -/
def decode : List Byte → Except DecodeError (Code × List Byte)
  | [] => .error .noOpcode
  | b :: rest =>
    let i := decodeOpcode b
    if rest.length < i.operandBytes then .error (.operandsMissing b)
    else .ok ({ instr := i, operands := rest.take i.operandBytes }, rest.drop i.operandBytes)

def AluMode.opcode (imm zp zpx abs absx absy izx izy : Byte) : AluMode → Byte
  | .imm => imm | .zp => zp | .zpx => zpx | .abs => abs | .absx => absx | .absy => absy | .izx => izx | .izy => izy

def StoreMode.opcode (zp zpx abs absx absy izx izy : Byte) : StoreMode → Byte
  | .zp => zp | .zpx => zpx | .abs => abs | .absx => absx | .absy => absy | .izx => izx | .izy => izy

def LdxMode.opcode (imm zp zpy abs absy : Byte) : LdxMode → Byte
  | .imm => imm | .zp => zp | .zpy => zpy | .abs => abs | .absy => absy

def LdyMode.opcode (imm zp zpx abs absx : Byte) : LdyMode → Byte
  | .imm => imm | .zp => zp | .zpx => zpx | .abs => abs | .absx => absx

def StxMode.opcode (zp zpy abs : Byte) : StxMode → Byte
  | .zp => zp | .zpy => zpy | .abs => abs

def StyMode.opcode (zp zpx abs : Byte) : StyMode → Byte
  | .zp => zp | .zpx => zpx | .abs => abs

def CpxMode.opcode (imm zp abs : Byte) : CpxMode → Byte
  | .imm => imm | .zp => zp | .abs => abs

def BitMode.opcode (zp abs : Byte) : BitMode → Byte
  | .zp => zp | .abs => abs

def IncMode.opcode (zp zpx abs absx : Byte) : IncMode → Byte
  | .zp => zp | .zpx => zpx | .abs => abs | .absx => absx

def ShiftMode.opcode (acc zp zpx abs absx : Byte) : ShiftMode → Byte
  | .acc => acc | .zp => zp | .zpx => zpx | .abs => abs | .absx => absx

def JmpMode.opcode (abs ind : Byte) : JmpMode → Byte
  | .abs => abs | .ind => ind

def SaxMode.opcode (zp zpy abs izx : Byte) : SaxMode → Byte
  | .zp => zp | .zpy => zpy | .abs => abs | .izx => izx

def LaxMode.opcode (zp zpy abs absy izx izy : Byte) : LaxMode → Byte
  | .zp => zp | .zpy => zpy | .abs => abs | .absy => absy | .izx => izx | .izy => izy

def ShaMode.opcode (izy absy : Byte) : ShaMode → Byte
  | .izy => izy | .absy => absy

/-- The opcode byte of an instruction, from the Encoding line of its rule. TRAP has no row of the map: its byte is the
parameter TRAP_OPCODE (rule R456), which `encode` takes as an argument; 0 stands here for "none". -/
def Instr.opcode : Instr → Byte
  | .lda m => m.opcode 0xA9 0xA5 0xB5 0xAD 0xBD 0xB9 0xA1 0xB1   -- R300
  | .ldx m => m.opcode 0xA2 0xA6 0xB6 0xAE 0xBE                  -- R301
  | .ldy m => m.opcode 0xA0 0xA4 0xB4 0xAC 0xBC                  -- R302
  | .sta m => m.opcode 0x85 0x95 0x8D 0x9D 0x99 0x81 0x91        -- R303
  | .stx m => m.opcode 0x86 0x96 0x8E                            -- R304
  | .sty m => m.opcode 0x84 0x94 0x8C                            -- R305
  | .tax => 0xAA | .tay => 0xA8 | .txa => 0x8A | .tya => 0x98    -- R320 to R323
  | .tsx => 0xBA | .txs => 0x9A                                  -- R324, R325
  | .pha => 0x48 | .php => 0x08 | .pla => 0x68 | .plp => 0x28    -- R326 to R329
  | .adc m => m.opcode 0x69 0x65 0x75 0x6D 0x7D 0x79 0x61 0x71   -- R340
  | .sbc m => m.opcode 0xE9 0xE5 0xF5 0xED 0xFD 0xF9 0xE1 0xF1   -- R343
  | .and m => m.opcode 0x29 0x25 0x35 0x2D 0x3D 0x39 0x21 0x31   -- R346
  | .ora m => m.opcode 0x09 0x05 0x15 0x0D 0x1D 0x19 0x01 0x11   -- R347
  | .eor m => m.opcode 0x49 0x45 0x55 0x4D 0x5D 0x59 0x41 0x51   -- R348
  | .cmp m => m.opcode 0xC9 0xC5 0xD5 0xCD 0xDD 0xD9 0xC1 0xD1   -- R350
  | .cpx m => m.opcode 0xE0 0xE4 0xEC                            -- R351
  | .cpy m => m.opcode 0xC0 0xC4 0xCC                            -- R352
  | .bit m => m.opcode 0x24 0x2C                                 -- R353
  | .inc m => m.opcode 0xE6 0xF6 0xEE 0xFE                       -- R354
  | .dec m => m.opcode 0xC6 0xD6 0xCE 0xDE                       -- R355
  | .inx => 0xE8 | .iny => 0xC8 | .dex => 0xCA | .dey => 0x88    -- R356 to R359
  | .asl m => m.opcode 0x0A 0x06 0x16 0x0E 0x1E                  -- R380
  | .lsr m => m.opcode 0x4A 0x46 0x56 0x4E 0x5E                  -- R381
  | .rol m => m.opcode 0x2A 0x26 0x36 0x2E 0x3E                  -- R382
  | .ror m => m.opcode 0x6A 0x66 0x76 0x6E 0x7E                  -- R383
  | .bpl => 0x10 | .bmi => 0x30 | .bvc => 0x50 | .bvs => 0x70    -- R391 to R394
  | .bcc => 0x90 | .bcs => 0xB0 | .bne => 0xD0 | .beq => 0xF0    -- R395 to R398
  | .jmp m => m.opcode 0x4C 0x6C                                 -- R399
  | .jsr => 0x20 | .rts => 0x60 | .brk => 0x00 | .rti => 0x40    -- R400 to R403
  | .clc => 0x18 | .sec => 0x38 | .cli => 0x58 | .sei => 0x78    -- R420 to R423
  | .cld => 0xD8 | .sed => 0xF8 | .clv => 0xB8 | .nop => 0xEA    -- R424 to R427
  | .jam op => op                                                -- R433
  | .nopUndoc _ op => op                                         -- R434
  | .slo m => m.opcode 0x07 0x17 0x0F 0x1F 0x1B 0x03 0x13        -- R435
  | .rla m => m.opcode 0x27 0x37 0x2F 0x3F 0x3B 0x23 0x33        -- R436
  | .sre m => m.opcode 0x47 0x57 0x4F 0x5F 0x5B 0x43 0x53        -- R437
  | .rra m => m.opcode 0x67 0x77 0x6F 0x7F 0x7B 0x63 0x73        -- R438
  | .sax m => m.opcode 0x87 0x97 0x8F 0x83                       -- R439
  | .lax m => m.opcode 0xA7 0xB7 0xAF 0xBF 0xA3 0xB3             -- R440
  | .dcp m => m.opcode 0xC7 0xD7 0xCF 0xDF 0xDB 0xC3 0xD3        -- R441
  | .isc m => m.opcode 0xE7 0xF7 0xEF 0xFF 0xFB 0xE3 0xF3        -- R442
  | .anc op => op                                                -- R443
  | .alr => 0x4B | .arr => 0x6B | .sbx => 0xCB | .usbc => 0xEB   -- R444 to R447
  | .las => 0xBB | .ane => 0x8B | .lxa => 0xAB                   -- R448 to R450
  | .sha m => m.opcode 0x93 0x9F                                 -- R451
  | .shx => 0x9E | .shy => 0x9C | .tas => 0x9B                   -- R452 to R454
  | .trap => 0x00

/-- Whether an instruction is one of the 105 undocumented opcodes, whose behaviour UNDOC_POLICY governs (rules R202,
R430). -/
def Instr.undocumented : Instr → Bool
  | .jam _ | .nopUndoc _ _ | .slo _ | .rla _ | .sre _ | .rra _ | .sax _ | .lax _ | .dcp _ | .isc _ => true
  | .anc _ | .alr | .arr | .sbx | .usbc | .las | .ane | .lxa | .sha _ | .shx | .shy | .tas => true
  | .lda _ | .ldx _ | .ldy _ | .sta _ | .stx _ | .sty _ => false
  | .tax | .tay | .txa | .tya | .tsx | .txs | .pha | .php | .pla | .plp => false
  | .adc _ | .sbc _ | .and _ | .ora _ | .eor _ | .cmp _ | .cpx _ | .cpy _ | .bit _ => false
  | .inc _ | .dec _ | .inx | .iny | .dex | .dey | .asl _ | .lsr _ | .rol _ | .ror _ => false
  | .bpl | .bmi | .bvc | .bvs | .bcc | .bcs | .bne | .beq | .jmp _ | .jsr | .rts | .brk | .rti => false
  | .clc | .sec | .cli | .sei | .cld | .sed | .clv | .nop => false
  | .trap => false

/-- The bytes of an instruction in memory: its opcode byte (TRAP_OPCODE, `trapByte`, for TRAP) and its operand bytes
(rules R170, R171, R456). -/
def encode (trapByte : Byte) (c : Code) : List Byte :=
  (if c.instr = .trap then trapByte else c.instr.opcode) :: c.operands

/-- The longest instruction has three bytes (rule R171). -/
def maxInstrBytes : Nat := 3

/-- The bytes of an instruction whose bits are `w`: the first byte is bits 7 to 0, the next bits 15 to 8, and every bit
from `nbits` up is 0. -/
def wordBytes (nbits w : Nat) : List Byte :=
  let v := w % 2 ^ nbits
  [BitVec.ofNat 8 v, BitVec.ofNat 8 (v / 256), BitVec.ofNat 8 (v / 65536)]

/-- The instruction the decoder reads from an instruction whose bits are `w`. -/
def decodeTableWord (nbits w : Nat) : Option Instr :=
  match decode (wordBytes nbits w) with
  | .ok (c, _) => some c.instr
  | .error _ => none

end Sys2Proof
end

