-- ==== Sys2Proof/Config.lean ====
section
/-! DEFINITION. The implementation parameters of spec 00_scope.md rule R8. A machine carries its parameters as data
(`MachineCfg`), so every statement about every state is a statement about every parameter value. The parameters the
spec leaves OPEN have no value here: the reset machine takes them from the opaque constants at the end of the file. -/

namespace Sys2Proof

/-- The machine variant (rules R8, R60). -/
inductive Variant where
  | pal | ntsc
deriving DecidableEq, Repr, Inhabited

/-- Cycles per second of a variant (rule R8, decision D43). -/
def Variant.cyclesPerSecond : Variant → Nat
  | .pal => 1108405
  | .ntsc => 1022727

/-- Cycles per raster line of a variant (rule R8, decision D43). -/
def Variant.cyclesPerLine : Variant → Nat
  | .pal => 71
  | .ntsc => 65

/-- TOTAL_WIDTH: four pixels per cycle (rule R8). -/
def Variant.totalWidth (v : Variant) : Nat := 4 * v.cyclesPerLine

/-- TOTAL_HEIGHT: raster lines (rule R8, decision D43). -/
def Variant.totalHeight : Variant → Nat
  | .pal => 312
  | .ntsc => 261

/-- N and V after a decimal add or subtract (rule R342, decision D9). -/
inductive BcdPolicy where
  | clear | preserve
deriving DecidableEq, Repr

/-- What the cartridge range 0xA000 to 0xBFFF holds (rule R130). -/
inductive CartKind where
  | unconnected | ram | rom
deriving DecidableEq, Repr

/-- MEM_CONFIG: which optional blocks hold RAM (rule R130, decision D15). -/
structure MemConfig where
  ram0400 : Bool
  ram0800 : Bool
  ram0C00 : Bool
  ram2000 : Bool
  ram4000 : Bool
  ram6000 : Bool
  cart : CartKind
deriving DecidableEq, Repr

/-- The default MEM_CONFIG: the unexpanded machine (rule R130, decision D15). -/
def MemConfig.unexpanded : MemConfig :=
  { ram0400 := false, ram0800 := false, ram0C00 := false, ram2000 := false, ram4000 := false, ram6000 := false,
    cart := .unconnected }

/-- A set of chips, as IO_DECODE gives one for an alias address (rule R134). -/
structure ChipSet where
  vic : Bool
  via1 : Bool
  via2 : Bool
deriving DecidableEq, Repr

/-- The parameters of one machine (rules R8, R60, R61). IO_DECODE is a finite list of addresses with their sets; an
address it does not list selects no chip (log entry 14). UNDOC_POLICY is the list of the undocumented opcodes whose policy is NOP. -/
structure MachineCfg where
  variant : Variant
  hOffset : Int
  vOffset : Int
  vblankLines : Nat
  visibleWidth : Nat
  visibleHeight : Nat
  float : Byte
  ioDecode : List (Nat × ChipSet)
  mem : MemConfig
  undocNop : List Byte
  bcdNV : BcdPolicy
  trapOpcode : Byte
  aneMagic : Byte
  lxaMagic : Byte
deriving DecidableEq, Repr

/-- The default UNDOC_POLICY: the nineteen opcodes whose policy is NOP (rule R430, decision D10). -/
def defaultUndocNop : List Byte :=
  [0x02, 0x12, 0x22, 0x32, 0x42, 0x52, 0x62, 0x72, 0x92, 0xB2, 0xD2, 0xF2] ++
  [0x8B, 0xAB, 0x93, 0x9F, 0x9E, 0x9C, 0x9B]

/-- What rule R8 requires of the parameters it constrains: H_OFFSET is a multiple of 4 and VBLANK_LINES is at most
TOTAL_HEIGHT. -/
def MachineCfg.wellFormed (k : MachineCfg) : Bool :=
  k.hOffset % 4 == 0 && decide (k.vblankLines ≤ k.variant.totalHeight)

/-- VARIANT of the reset machine: an argument of the machine, no value given (rule R8; log entry 2). -/
opaque Config.variant : Variant
/-- H_OFFSET / 4 of the reset machine: OPEN, a multiple of 4 (rule R8, decision D23; log entry 2). -/
opaque Config.hOffsetQuarter : Int
/-- V_OFFSET of the reset machine: OPEN (rule R8, decision D23; log entry 2). -/
opaque Config.vOffset : Int
/-- VBLANK_LINES of the reset machine before its bound: OPEN in 0 to TOTAL_HEIGHT (rule R8, decision D23; log entry 2). -/
opaque Config.vblankLines : Nat
/-- VISIBLE_WIDTH of the reset machine: OPEN, used by the renderer only (rule R8; log entry 2). -/
opaque Config.visibleWidth : Nat
/-- VISIBLE_HEIGHT of the reset machine: OPEN, used by the renderer only (rule R8; log entry 2). -/
opaque Config.visibleHeight : Nat
/-- FLOAT of the reset machine: OPEN (rules R8, R116, decision D16; log entry 2). -/
opaque Config.float : Byte
/-- IO_DECODE of the reset machine: OPEN (rules R8, R134, decision D19; log entry 2). -/
opaque Config.ioDecode : List (Nat × ChipSet)
/-- TRAP_OPCODE of the reset machine: OPEN (rules R8, R203, decision D12; log entry 2). -/
opaque Config.trapOpcode : Byte
/-- ANE_MAGIC of the reset machine: OPEN (rules R8, R449, decision D10; log entry 2). -/
opaque Config.aneMagic : Byte
/-- LXA_MAGIC of the reset machine: OPEN (rules R8, R450, decision D10; log entry 2). -/
opaque Config.lxaMagic : Byte

/-- The parameters of the reset machine: the spec's default where it gives one, an unknown value where it is OPEN. -/
def MachineCfg.default : MachineCfg :=
  { variant := Config.variant
    hOffset := 4 * Config.hOffsetQuarter
    vOffset := Config.vOffset
    vblankLines := min Config.vblankLines Config.variant.totalHeight
    visibleWidth := Config.visibleWidth
    visibleHeight := Config.visibleHeight
    float := Config.float
    ioDecode := Config.ioDecode
    mem := MemConfig.unexpanded
    undocNop := defaultUndocNop
    bcdNV := .clear
    trapOpcode := Config.trapOpcode
    aneMagic := Config.aneMagic
    lxaMagic := Config.lxaMagic }

end Sys2Proof
end

