-- ==== Sys2Proof/Machine/State.lean ====
section
/-! DEFINITION. The state of the machine as plain data (spec 10_state.md, with the fields of 61_timer_io_chip.md rule R606
and 62_video_chip.md rule R705), the two ways a step can stop, and the state after reset (70_reset_and_hazards.md rules
R801 to R803). -/

namespace Sys2Proof.Machine

open Sys2Proof

/-- A sparse array of `w`-bit cells: the cells that are not 0, by strictly rising index (log entry 5). -/
abbrev Sparse (w : Nat) := List (Nat × BitVec w)

/-- The flat array `mem: byte[65536]` (rules R50, R102): a cell that is not listed holds 0x00, its content at reset
(rule R801). -/
abbrev Memory := Sparse 8

/-- A framebuffer: 4-bit colour indices, row-major, 0 where not listed (rules R705, R720, R740). -/
abbrev Frame := Sparse 4

/-! ### The CPU -/

/-- The two interrupt kinds (rule R36). -/
inductive IntKind where
  | nmi | irq
deriving DecidableEq, Repr

/-- `prog`, the micro-op program in progress (rule R36). -/
inductive Prog where
  | none
  | instr (op : Byte)
  | intSeq (kind : IntKind)
  | trap
deriving DecidableEq, Repr

/-- `next`, what cycle 1 of the next program is (rule R40). -/
inductive Next where
  | fetch
  | int (kind : IntKind)
deriving DecidableEq, Repr

/-- The CPU's registers, flags and hidden state, but for the interrupt lines (`Lines`) and the trap table. -/
structure Cpu where
  /-- Accumulator and index registers (rule R30). -/
  a : Byte
  x : Byte
  y : Byte
  /-- Stack pointer (rule R31). -/
  s : Byte
  /-- Program counter (rule R32). -/
  pc : Addr
  /-- The six flags N V D I Z C (rule R33). -/
  n : Bool
  v : Bool
  d : Bool
  i : Bool
  z : Bool
  c : Bool
  /-- The program in progress and the 1-based number of its next cycle (rule R36); `t` is 0 between programs. -/
  prog : Prog
  t : Nat
  /-- The selector of the next program (rule R40). -/
  next : Next
  /-- The latches (rule R37). -/
  adl : Byte
  adh : Byte
  ptr : Byte
  data : Byte
  ea : Addr
  cross : Bool
  off : Byte
  /-- The one-cycle interrupt-delay flag (rule R39). -/
  irqDelay : Bool
  /-- The diagnostic counter of opcodes run as no-ops (rule R41). -/
  undocCount : Nat
deriving DecidableEq, Repr

/-- The CPU's interrupt-line bits, written by the chips' callbacks (rule R38). -/
structure Lines where
  irqLevel : Bool
  nmiLevel : Bool
  nmiPending : Bool
deriving DecidableEq, Repr

/-- A record of the trap table: the byte the trap replaced and the host's callback, named by a number (rule R42). -/
structure TrapRecord where
  saved : Byte
  callback : Nat
deriving DecidableEq, Repr

/-! ### The timer/IO chips -/

/-- The two timer/IO chip instances (rule R600). -/
inductive ViaId where
  | via1 | via2
deriving DecidableEq, Repr

/-- The state of one timer/IO chip (rule R55). IFR and IER hold bits 6 to 0; bit 7 is computed (rules R603, R604). -/
structure Via where
  ora : Byte
  orb : Byte
  ira : Byte
  irb : Byte
  ddra : Byte
  ddrb : Byte
  t1c : BitVec 16
  t1l : BitVec 16
  t2c : BitVec 16
  t2ll : Byte
  sr : Byte
  acr : Byte
  pcr : Byte
  ifr : BitVec 7
  ier : BitVec 7
  t1Armed : Bool
  t2Armed : Bool
  t1Hold : Bool
  t2Hold : Bool
  t1Reload : Bool
  lastCa1 : Bool
  lastCa2 : Bool
  lastCb1 : Bool
  lastCb2 : Bool
  ca2Out : Bool
  cb2Out : Bool
deriving DecidableEq, Repr

/-! ### The video chip -/

/-- The state of the video chip (rules R56, R700, R705). The derived geometry of rule R56 is a function of `cr` and the
parameters (rule R713): `Vic.geometry`. -/
structure Vic where
  cr : Vector Byte 16
  hcount : Nat
  vcount : Nat
  rowBase : Nat
  depth : Nat
  col : Nat
  code : Byte
  colour : BitVec 4
  bitmap : Byte
  cursor : Nat
  work : Frame
  shown : Frame
  frameComplete : Bool
deriving DecidableEq, Repr

/-! ### The bus -/

/-- What the host's `map` may install at a range (rule R118). -/
inductive MapChip where
  | ram | rom | colour | vic | via (id : ViaId) | unconnected
deriving DecidableEq, Repr

/-- One call of `map`: the chip, its range and the mirror mask (rule R118). -/
structure MapEntry where
  chip : MapChip
  start : Addr
  stop : Addr
  mirrorMask : Addr
deriving DecidableEq, Repr

/-! ### The host's side -/

/-- The port registers a pin source is passed (rule R611). -/
structure PortSel where
  ora : Byte
  ddra : Byte
  orb : Byte
  ddrb : Byte
deriving DecidableEq, Repr

/-- A peripheral pin source: a function from the port registers to a byte (rules R91, R611), given by its values; it
answers 0xFF, the value without a source, where none is listed. -/
abbrev PinSource := List (PortSel × Byte)

/-- The host inputs of one timer/IO chip (rule R97). -/
structure ChipInputs where
  pinA : PinSource
  pinB : PinSource
  ca1 : Bool
  ca2 : Bool
  cb1 : Bool
  cb2 : Bool
deriving DecidableEq, Repr

/-- A bus access made by a trap callback (rule R456). -/
inductive BusAccess where
  | read (a : Addr)
  | write (a : Addr) (v : Byte)
deriving DecidableEq, Repr

/-- One run of a trap callback: its bus accesses in order and the PC it returns, if any (rule R456). -/
structure CallbackRun where
  accesses : List BusAccess
  newPc : Option Addr
deriving DecidableEq, Repr

/-- Everything the host presents to the core in one tick (rules R83, R97). -/
structure HostInputs where
  via1 : ChipInputs
  via2 : ChipInputs
  lpx : Byte
  lpy : Byte
  potx : Byte
  poty : Byte
  /-- What a trap callback invoked in this tick does. -/
  callbackRun : CallbackRun
deriving DecidableEq, Repr

/-- The pins a `pins_changed` call names (rule R612). -/
inductive PinGroup where
  | portA | portB | ca2 | cb2
deriving DecidableEq, Repr

/-- A call the core makes to the host: the `pins_changed` hook (rule R612) or a trap callback (rule R456). -/
inductive HostCall where
  | pinsChanged (chip : ViaId) (pins : PinGroup) (value mask : Byte)
  | trapCallback (callback : Nat) (a : Addr)
deriving DecidableEq, Repr

/-! ### The machine -/

/-- The whole machine (rules R30 to R61, R97). -/
structure State where
  cpu : Cpu
  lines : Lines
  /-- The trap table: a finite map by address (rule R42). -/
  traps : List (Addr × TrapRecord)
  mem : Memory
  /-- The `map` calls made after construction, the latest first; with `cfg` they give the handler array (rule R51). -/
  maps : List MapEntry
  via1 : Via
  via2 : Via
  vic : Vic
  /-- VARIANT, MEM_CONFIG and the other parameters (rules R60, R61). -/
  cfg : MachineCfg
  /-- The host inputs now presented (rule R97). -/
  inputs : HostInputs
  /-- What the host will present at the start of each of the next ticks; when it runs out the inputs stay (log entry 4). -/
  script : List HostInputs
  /-- The calls made to the host so far, the latest first (rules R612, R456; log entry 4). -/
  hostCalls : List HostCall
deriving DecidableEq, Repr

/-- The ways the machine stops. The hardware raises nothing (rules R84, R500). -/
inductive Fault where
  /-- Raised by `step` alone, in a state whose step index lies outside the program in progress, which the invariant of
  rule R36 excludes and no run from reset reaches. Safe: the model stops where the spec says no machine is. -/
  | stepIndexOutOfBounds
deriving DecidableEq, Repr

/-- What the model refuses. -/
inductive Refusal where
  /-- Raised by `exec` for an instruction without a meaning; every instruction has one, so nothing raises it. Safe. -/
  | notModelled (mnemonic : String)
deriving DecidableEq, Repr

/-! ### Reset -/

/-- The CPU at reset with the vector `pc` (rule R802). -/
def Cpu.reset (pc : Addr) : Cpu :=
  { a := 0, x := 0, y := 0, s := 0xFF, pc := pc,
    n := false, v := false, d := false, i := true, z := false, c := false,
    prog := .none, t := 0, next := .fetch,
    adl := 0, adh := 0, ptr := 0, data := 0, ea := 0, cross := false, off := 0,
    irqDelay := false, undocCount := 0 }

/-- The interrupt lines at reset (rules R38, R803). -/
def Lines.reset : Lines := { irqLevel := false, nmiLevel := false, nmiPending := false }

/-- A timer/IO chip at reset (rule R606). -/
def Via.reset : Via :=
  { ora := 0, orb := 0, ira := 0, irb := 0, ddra := 0, ddrb := 0, t1c := 0, t1l := 0, t2c := 0, t2ll := 0,
    sr := 0, acr := 0, pcr := 0, ifr := 0, ier := 0,
    t1Armed := false, t2Armed := false, t1Hold := false, t2Hold := false, t1Reload := false,
    lastCa1 := true, lastCa2 := true, lastCb1 := true, lastCb2 := true, ca2Out := true, cb2Out := true }

/-- The video chip at reset (rule R720). -/
def Vic.reset : Vic :=
  { cr := Vector.replicate 16 0, hcount := 0, vcount := 0, rowBase := 0, depth := 0, col := 0, code := 0, colour := 0,
    bitmap := 0, cursor := 0, work := [], shown := [], frameComplete := false }

/-- The inputs of a chip whose host has supplied nothing: no pin source (rule R611), the lines idle high (decision D36). -/
def ChipInputs.idle : ChipInputs := { pinA := [], pinB := [], ca1 := true, ca2 := true, cb1 := true, cb2 := true }

/-- The host inputs before the host supplies any (rules R611, R702, decision D36; log entry 10). -/
def HostInputs.idle : HostInputs :=
  { via1 := ChipInputs.idle, via2 := ChipInputs.idle, lpx := 0, lpy := 0, potx := 0, poty := 0,
    callbackRun := { accesses := [], newPc := none } }

/-- The machine right after reset with the source's empty (zero-filled) ROM and RAM image (source §8, rules R801 to R803):
no cell of memory is listed, and PC is the reset vector, which is 0x0000 in that image. `boot` builds the reset machine of
any other image. -/
def State.reset : State :=
  { cpu := Cpu.reset 0x0000, lines := Lines.reset, traps := [], mem := [], maps := [],
    via1 := Via.reset, via2 := Via.reset, vic := Vic.reset, cfg := MachineCfg.default,
    inputs := HostInputs.idle, script := [], hostCalls := [] }

end Sys2Proof.Machine
end

