-- ==== Sys2Proof/Machine/Memory.lean ====
section
/-! DEFINITION. Reading and writing a sparse array in its one canonical form, and the byte helpers of the 16-bit
addresses (rules R10, R105). -/

namespace Sys2Proof.Machine

open Sys2Proof

/-- The 16-bit value with the given high and low byte (rule R10). -/
def mk16 (hi lo : Byte) : Addr := hi ++ lo

/-- Bits 15 to 8. -/
def hiByte (a : Addr) : Byte := a.extractLsb' 8 8

/-- Bits 7 to 0. -/
def loByte (a : Addr) : Byte := a.extractLsb' 0 8

/-- The signed value of a byte as a 16-bit addend (`sext_8`, rule R11). -/
def sext (b : Byte) : Addr := b.signExtend 16

/-- The content of a cell: 0 where nothing is listed (rule R801, rule R720). -/
def Sparse.read {w : Nat} : Sparse w → Nat → BitVec w
  | [], _ => 0
  | (k, v) :: rest, a => if k = a then v else Sparse.read rest a

/-- Writes a cell, keeping the form: keys rise and no listed cell is 0. -/
def Sparse.write {w : Nat} : Sparse w → Nat → BitVec w → Sparse w
  | [], a, v => if v = 0 then [] else [(a, v)]
  | (k, x) :: rest, a, v =>
    if a < k then (if v = 0 then (k, x) :: rest else (a, v) :: (k, x) :: rest)
    else if a = k then (if v = 0 then rest else (a, v) :: rest)
    else (k, x) :: Sparse.write rest a v

/-- The canonical form: keys rise strictly, every key is below `size` and no listed cell is 0. -/
def Sparse.wf {w : Nat} (size : Nat) : Sparse w → Bool
  | [] => true
  | (k, v) :: rest =>
    v != 0 && decide (k < size) && (match rest with | [] => true | (k', _) :: _ => decide (k < k')) &&
      Sparse.wf size rest

/-- The canonical form of the 64 KiB array. -/
def Memory.wf (m : Memory) : Bool := Sparse.wf 65536 m

/-- Writes a run of cells from index `a` up. -/
def Sparse.writeRun {w : Nat} (m : Sparse w) (a : Nat) : List (BitVec w) → Sparse w
  | [] => m
  | v :: vs => Sparse.writeRun (Sparse.write m a v) (a + 1) vs

/-- `RawRead(a)`: the byte of the array, with no dispatch and no side effect (rule R104). -/
def rawRead (m : Memory) (a : Addr) : Byte := Sparse.read m a.toNat

/-- `RawWrite(a, v)` (rule R104). -/
def rawWrite (m : Memory) (a : Addr) (v : Byte) : Memory := Sparse.write m a.toNat v

/-- Writes bytes at consecutive addresses from `a`, wrapping mod 65536 (rule R101). -/
def rawWriteBytes (m : Memory) (a : Addr) : List Byte → Memory
  | [] => m
  | b :: bs => rawWriteBytes (rawWrite m a b) (a + 1) bs

end Sys2Proof.Machine
end

