-- ==== Sys2Proof/Machine/Via.lean ====
section
/-! DEFINITION. The timer/IO chip (spec 61_timer_io_chip.md): its sixteen registers, the flag-clearing accesses, the
timers, the ports and the control lines. Both instances obey these definitions (rule R600). -/

namespace Sys2Proof.Machine

open Sys2Proof

/-! ### Flags and the pin -/

/-- The IFR and IER bit numbers (rule R603). -/
def ifrCA2 : Nat := 0
def ifrCA1 : Nat := 1
def ifrSR : Nat := 2
def ifrCB2 : Nat := 3
def ifrCB1 : Nat := 4
def ifrT2 : Nat := 5
def ifrT1 : Nat := 6

/-- Sets flag `n` of IFR. -/
def Via.setFlag (n : Nat) (v : Via) : Via := { v with ifr := v.ifr ||| (1#7 <<< n) }

/-- Clears flag `n` of IFR. -/
def Via.clearFlag (n : Nat) (v : Via) : Via := { v with ifr := v.ifr &&& ~~~(1#7 <<< n) }

/-- The any-interrupt bit, which is the level of the chip's pin (rules R603, R605). -/
def Via.pinLevel (v : Via) : Bool := (v.ifr &&& v.ier) != 0

/-! ### Control fields (rules R630, R631) -/

/-- PCR bits 3 to 1. -/
def Via.ca2Control (v : Via) : BitVec 3 := v.pcr.extractLsb' 1 3

/-- PCR bits 7 to 5. -/
def Via.cb2Control (v : Via) : BitVec 3 := v.pcr.extractLsb' 5 3

/-- The independent-interrupt input modes 001 and 011 (rules R607, R631). -/
def independentInput (ctl : BitVec 3) : Bool := ctl == 1 || ctl == 3

/-- The input modes 000 to 011 (rule R631). -/
def inputMode (ctl : BitVec 3) : Bool := !ctl.getLsbD 2

/-- The input modes with a rising active edge, 010 and 011 (rule R631). -/
def risingInput (ctl : BitVec 3) : Bool := ctl == 2 || ctl == 3

/-- The output level of CA2 or CB2: low in mode 110, else high (rule R652). -/
def controlOut (ctl : BitVec 3) : Bool := ctl != 6

/-! ### Ports -/

/-- The value of a pin source for the chip's port registers; 0xFF where the host gives none (rule R611). -/
def PinSource.value (src : PinSource) (sel : PortSel) : Byte :=
  match src.find? (fun e => decide (e.1 = sel)) with
  | some e => e.2
  | none => 0xFF

/-- The port registers the chip passes to its pin source (rule R611). -/
def Via.portSel (v : Via) : PortSel := { ora := v.ora, ddra := v.ddra, orb := v.orb, ddrb := v.ddrb }

/-- `pin(A)` (rule R610). -/
def Via.pinA (inp : ChipInputs) (v : Via) : Byte := (inp.pinA.value v.portSel &&& ~~~v.ddra) ||| (v.ora &&& v.ddra)

/-- `pin(B)` (rule R610). -/
def Via.pinB (inp : ChipInputs) (v : Via) : Byte := (inp.pinB.value v.portSel &&& ~~~v.ddrb) ||| (v.orb &&& v.ddrb)

/-- A read of port A: the latch or the live pins, by ACR bit 0 (rule R610). -/
def Via.readPortA (inp : ChipInputs) (v : Via) : Byte := if v.acr.getLsbD 0 then v.ira else v.pinA inp

/-- A read of port B: the latch or the live pins, by ACR bit 1 (rule R610). -/
def Via.readPortB (inp : ChipInputs) (v : Via) : Byte := if v.acr.getLsbD 1 then v.irb else v.pinB inp

/-! ### Register reads -/

/-- The "read returns" column of rule R601. -/
def Via.readValue (inp : ChipInputs) (r : BitVec 4) (v : Via) : Byte :=
  match r.toNat with
  | 0 => v.readPortB inp
  | 1 => v.readPortA inp
  | 2 => v.ddrb
  | 3 => v.ddra
  | 4 => loByte v.t1c
  | 5 => hiByte v.t1c
  | 6 => loByte v.t1l
  | 7 => hiByte v.t1l
  | 8 => loByte v.t2c
  | 9 => hiByte v.t2c
  | 10 => v.sr
  | 11 => v.acr
  | 12 => v.pcr
  | 13 => BitVec.ofBool v.pinLevel ++ v.ifr
  | 14 => 1#1 ++ v.ier
  | _ => v.readPortA inp

/-- The flags an access to register 1 clears (rule R607). -/
def Via.clearPortA (v : Via) : Via :=
  let v := v.clearFlag ifrCA1
  if independentInput v.ca2Control then v else v.clearFlag ifrCA2

/-- The flags an access to register 0 clears (rule R607). -/
def Via.clearPortB (v : Via) : Via :=
  let v := v.clearFlag ifrCB1
  if independentInput v.cb2Control then v else v.clearFlag ifrCB2

/-- The flag clearing of a read of register r (rule R607). -/
def Via.clearOnRead (r : BitVec 4) (v : Via) : Via :=
  match r.toNat with
  | 0 => v.clearPortB
  | 1 => v.clearPortA
  | 4 => v.clearFlag ifrT1
  | 8 => v.clearFlag ifrT2
  | 10 => v.clearFlag ifrSR
  | _ => v

/-! ### Register writes -/

/-- A write of PCR: the byte is stored and CA2 and CB2 recomputed (rules R601, R652). -/
def Via.writePcr (x : Byte) (v : Via) : Via :=
  let v := { v with pcr := x }
  { v with ca2Out := controlOut v.ca2Control, cb2Out := controlOut v.cb2Control }

/-- A write of T1C-H: latch, load, clear the flag, arm and hold (rule R609). -/
def Via.startTimer1 (x : Byte) (v : Via) : Via :=
  let latch := mk16 x (loByte v.t1l)
  { v.clearFlag ifrT1 with t1l := latch, t1c := latch, t1Armed := true, t1Hold := true, t1Reload := false }

/-- A write of T2C-H: load, clear the flag, arm and hold (rule R609). -/
def Via.startTimer2 (x : Byte) (v : Via) : Via :=
  { v.clearFlag ifrT2 with t2c := mk16 x v.t2ll, t2Armed := true, t2Hold := true }

/-- A write of IER: bit 7 says whether the written bits are set or cleared (rule R604). -/
def Via.writeIer (x : Byte) (v : Via) : Via :=
  if x.getLsbD 7 then { v with ier := v.ier ||| x.setWidth 7 } else { v with ier := v.ier &&& ~~~(x.setWidth 7) }

/-- A write of register r, with the flag clearing of rule R607 (rules R601, R602). -/
def Via.write (r : BitVec 4) (x : Byte) (v : Via) : Via :=
  match r.toNat with
  | 0 => { v.clearPortB with orb := x }
  | 1 => { v.clearPortA with ora := x }
  | 2 => { v with ddrb := x }
  | 3 => { v with ddra := x }
  | 4 => { v with t1l := mk16 (hiByte v.t1l) x }
  | 5 => v.startTimer1 x
  | 6 => { v with t1l := mk16 (hiByte v.t1l) x }
  | 7 => { v.clearFlag ifrT1 with t1l := mk16 x (loByte v.t1l) }
  | 8 => { v with t2ll := x }
  | 9 => v.startTimer2 x
  | 10 => { v.clearFlag ifrSR with sr := x }
  | 11 => { v with acr := x }
  | 12 => v.writePcr x
  | 13 => { v with ifr := v.ifr &&& ~~~(x.setWidth 7) }
  | 14 => v.writeIer x
  | _ => { v with ora := x }

/-- A level as the byte `pins_changed` carries. -/
def levelByte (b : Bool) : Byte := if b then 1 else 0

/-- The `pins_changed` calls of a write of register r that took the chip from `v` to `v'` (rule R612). Where one write of PCR
changes both CA2 and CB2 the call for CA2 comes first: no rule gives their order, DESIGN CHOICE (log entry 17). -/
def Via.pinCalls (id : ViaId) (r : BitVec 4) (v v' : Via) : List HostCall :=
  match r.toNat with
  | 0 | 2 => [.pinsChanged id .portB v'.orb v'.ddrb]
  | 1 | 3 | 15 => [.pinsChanged id .portA v'.ora v'.ddra]
  | 12 =>
    (if v'.ca2Out != v.ca2Out then [.pinsChanged id .ca2 (levelByte v'.ca2Out) 1] else []) ++
      (if v'.cb2Out != v.cb2Out then [.pinsChanged id .cb2 (levelByte v'.cb2Out) 1] else [])
  | _ => []

/-! ### The chip cycle -/

/-- Timer 1, one cycle (rule R621). -/
def Via.timer1Cycle (v : Via) : Via :=
  if v.t1Hold then { v with t1Hold := false }
  else if v.t1Reload then { v with t1c := v.t1l, t1Reload := false }
  else if v.t1c = 0 then
    if v.acr.getLsbD 6 then { v.setFlag ifrT1 with t1c := 0xFFFF, t1Reload := true }
    else if v.t1Armed then { v.setFlag ifrT1 with t1c := 0xFFFF, t1Armed := false }
    else { v with t1c := 0xFFFF }
  else { v with t1c := v.t1c - 1 }

/-- Timer 2, one cycle (rule R622). -/
def Via.timer2Cycle (v : Via) : Via :=
  if v.t2Hold then { v with t2Hold := false }
  else if v.t2c = 0 then
    if v.t2Armed then { v.setFlag ifrT2 with t2c := 0xFFFF, t2Armed := false }
    else { v with t2c := 0xFFFF }
  else { v with t2c := v.t2c - 1 }

/-- `edge(old, new, rising)` (rule R650). -/
def activeEdge (old new rising : Bool) : Bool := if rising then !old && new else old && !new

/-- The sampling of CA1 (rule R650), with the latching of port A on its active edge (rule R651). -/
def Via.sampleCa1 (inp : ChipInputs) (v : Via) : Via :=
  let v' := if activeEdge v.lastCa1 inp.ca1 (v.pcr.getLsbD 0) then { v.setFlag ifrCA1 with ira := v.pinA inp } else v
  { v' with lastCa1 := inp.ca1 }

/-- The sampling of CB1 (rule R650), with the latching of port B on its active edge (rule R651). -/
def Via.sampleCb1 (inp : ChipInputs) (v : Via) : Via :=
  let v' := if activeEdge v.lastCb1 inp.cb1 (v.pcr.getLsbD 4) then { v.setFlag ifrCB1 with irb := v.pinB inp } else v
  { v' with lastCb1 := inp.cb1 }

/-- The sampling of CA2 (rule R650). -/
def Via.sampleCa2 (inp : ChipInputs) (v : Via) : Via :=
  let v' :=
    if inputMode v.ca2Control && activeEdge v.lastCa2 inp.ca2 (risingInput v.ca2Control) then v.setFlag ifrCA2 else v
  { v' with lastCa2 := inp.ca2 }

/-- The sampling of CB2 (rule R650). -/
def Via.sampleCb2 (inp : ChipInputs) (v : Via) : Via :=
  let v' :=
    if inputMode v.cb2Control && activeEdge v.lastCb2 inp.cb2 (risingInput v.cb2Control) then v.setFlag ifrCB2 else v
  { v' with lastCb2 := inp.cb2 }

/-- `control_lines_cycle()`: CA1, CB1, CA2, CB2 in that order (rule R650). -/
def Via.controlLinesCycle (inp : ChipInputs) (v : Via) : Via :=
  (((v.sampleCa1 inp).sampleCb1 inp).sampleCa2 inp).sampleCb2 inp

/-- `TimerIoChip.emulateCycle()`, but for the callback (rule R620). -/
def Via.cycle (inp : ChipInputs) (v : Via) : Via := v.timer1Cycle.timer2Cycle.controlLinesCycle inp

end Sys2Proof.Machine
end

