-- ==== Sys2Proof/Machine/VideoChip.lean ====
section
/-! DEFINITION. The video chip (spec 62_video_chip.md): its registers, the derived geometry, the fetches and the
pixels of one cycle. -/

namespace Sys2Proof.Machine

open Sys2Proof

/-! ### Registers -/

/-- The raw byte of control register r (rule R700). -/
def Vic.reg (v : Vic) (r : BitVec 4) : Byte := v.cr.get r.toFin

/-- A CPU read of register r (rules R701, R702, R704). -/
def Vic.read (inp : HostInputs) (r : BitVec 4) (v : Vic) : Byte :=
  match r.toNat with
  | 3 => BitVec.ofNat 1 v.vcount ++ (v.reg 3).setWidth 7
  | 4 => BitVec.ofNat 8 (v.vcount / 2)
  | 6 => inp.lpx
  | 7 => inp.lpy
  | 8 => inp.potx
  | 9 => inp.poty
  | _ => v.reg r

/-- A CPU write of register r: registers 4 and 6 to 9 and bit 7 of register 3 take no write (rule R701). -/
def Vic.write (r : BitVec 4) (x : Byte) (v : Vic) : Vic :=
  match r.toNat with
  | 3 => { v with cr := v.cr.set 3 ((v.reg 3 &&& 0x80) ||| (x &&& 0x7F)) }
  | 4 | 6 | 7 | 8 | 9 => v
  | _ => { v with cr := v.cr.set r.toNat x }

/-! ### Derived geometry -/

/-- The derived geometry of rule R710. -/
structure Geometry where
  left : Int
  top : Int
  columns : Nat
  rows : Nat
  h : Nat
  right : Int
  bottom : Int
  vmBase : Nat
  cmBase : Nat
  clBase : Nat
  bg : BitVec 4
  reverse : Bool
  border : BitVec 3
  aux : BitVec 4
deriving DecidableEq, Repr

/-- The geometry as a function of the raw registers and the parameters (rules R710, R713). -/
def Vic.geometry (k : MachineCfg) (v : Vic) : Geometry :=
  let left : Int := 4 * ((v.reg 0).toNat % 128) + k.hOffset
  let top : Int := 2 * (v.reg 1).toNat + k.vOffset
  let columns := (v.reg 2).toNat % 128
  let rows := (v.reg 3).toNat / 2 % 64
  let h := if (v.reg 3).getLsbD 0 then 16 else 8
  let mb9 := (v.reg 2).toNat / 128 * 512
  { left := left
    top := top
    columns := columns
    rows := rows
    h := h
    right := left + 8 * columns
    bottom := top + rows * h
    vmBase := (v.reg 5).toNat / 16 * 1024 + mb9
    cmBase := (v.reg 5).toNat % 16 * 1024
    clBase := mb9
    bg := (v.reg 15).extractLsb' 4 4
    reverse := !(v.reg 15).getLsbD 3
    border := (v.reg 15).extractLsb' 0 3
    aux := (v.reg 14).extractLsb' 4 4 }

/-! ### Fetches -/

/-- `vic_to_cpu`: the CPU address of a 14-bit video address (rule R141). -/
def vicToCpu (v : Nat) : Nat := if v / 8192 % 2 = 1 then v % 8192 else 32768 + v % 8192

/-- The CPU address of the colour byte of matrix offset `mo` (rule R712). -/
def colourAddr (g : Geometry) (mo : Nat) : Nat := 37888 + (g.clBase + mo) % 1024

/-- `fetch_code(c)`, phase (a) of a cell (rule R731). -/
def Vic.fetchCode (g : Geometry) (mem : Memory) (c : Nat) (v : Vic) : Vic :=
  let mo := v.rowBase + c
  { v with
    col := c
    code := Sparse.read mem (vicToCpu ((g.vmBase + mo) % 16384))
    colour := (Sparse.read mem (colourAddr g mo)).setWidth 4 }

/-- `fetch_bitmap()`, phase (b) of a cell (rule R731). -/
def Vic.fetchBitmap (g : Geometry) (mem : Memory) (v : Vic) : Vic :=
  { v with bitmap := Sparse.read mem (vicToCpu ((g.cmBase + v.code.toNat * g.h + v.depth) % 16384)) }

/-! ### Pixels -/

/-- One hires pixel (rule R732). -/
def hiresPixel (g : Geometry) (fg : BitVec 4) (bit : Bool) : BitVec 4 := if bit != g.reverse then fg else g.bg

/-- The colour of one pair of multicolour bits (rule R732). -/
def multicolourPixel (g : Geometry) (fg : BitVec 4) (b1 b0 : Bool) : BitVec 4 :=
  match b1, b0 with
  | false, false => g.bg
  | false, true => g.border.setWidth 4
  | true, false => fg
  | true, true => g.aux

/-- `cell_pixels(half)`: the four colour indices of half a cell, leftmost first (rule R732). -/
def Vic.cellPixels (g : Geometry) (secondHalf : Bool) (v : Vic) : List (BitVec 4) :=
  let bits : BitVec 4 := if secondHalf then v.bitmap.extractLsb' 0 4 else v.bitmap.extractLsb' 4 4
  let fg : BitVec 4 := (v.colour.extractLsb' 0 3).setWidth 4
  if v.colour.getLsbD 3 then
    let l := multicolourPixel g fg (bits.getLsbD 3) (bits.getLsbD 2)
    let r := multicolourPixel g fg (bits.getLsbD 1) (bits.getLsbD 0)
    [l, l, r, r]
  else
    [hiresPixel g fg (bits.getLsbD 3), hiresPixel g fg (bits.getLsbD 2), hiresPixel g fg (bits.getLsbD 1),
      hiresPixel g fg (bits.getLsbD 0)]

/-- Four border pixels (rule R733). -/
def borderPixels (g : Geometry) : List (BitVec 4) :=
  let b : BitVec 4 := g.border.setWidth 4
  [b, b, b, b]

/-! ### The chip cycle (rule R730) -/

/-- Whether the current line lies in the matrix rows. -/
def Vic.inRows (g : Geometry) (v : Vic) : Bool := decide (g.top ≤ v.vcount) && decide ((v.vcount : Int) < g.bottom)

/-- The first half of the cycle: the bitmap fetch, the four pixels, and the code fetch of the next cell. -/
def Vic.drawGroup (k : MachineCfg) (mem : Memory) (v : Vic) : Vic :=
  let g := v.geometry k
  let x := (v.hcount : Int) - g.left
  let span : Int := 8 * g.columns
  let inRows := v.inRows g
  let inCell := inRows && decide (0 ≤ x) && decide (x < span)
  let first := decide (x % 8 = 0)
  let v := if inCell && first then v.fetchBitmap g mem else v
  let px := if inCell then v.cellPixels g (!first) else borderPixels g
  let v := if k.vblankLines ≤ v.vcount then { v with work := Sparse.writeRun v.work v.cursor px } else v
  if inRows && decide (-4 ≤ x) && decide (x < span - 4) && decide ((x + 4) % 8 = 0) then
    v.fetchCode g mem ((x + 4) / 8).toNat
  else v

/-- The row and depth bookkeeping at the end of a line (rule R734). -/
def Vic.endLine (g : Geometry) (v : Vic) : Vic :=
  if v.inRows g then
    if v.depth + 1 = g.h then { v with depth := 0, rowBase := v.rowBase + g.columns }
    else { v with depth := v.depth + 1 }
  else v

/-- The end of a frame: counters to zero, `work` shown, the signal raised (rules R730, R736, R737). -/
def Vic.endFrame (v : Vic) : Vic :=
  { v with vcount := 0, cursor := 0, rowBase := 0, depth := 0, shown := v.work, frameComplete := true }

/-- The second half of the cycle: the cursor and the counters. -/
def Vic.advance (k : MachineCfg) (v : Vic) : Vic :=
  let v := { v with cursor := v.cursor + 4, hcount := v.hcount + 4 }
  if v.hcount = k.variant.totalWidth then
    let v := { v with hcount := 0 }
    let v := v.endLine (v.geometry k)
    let v := { v with vcount := v.vcount + 1 }
    if v.vcount = k.variant.totalHeight then v.endFrame else v
  else v

/-- `VideoChip.emulateCycle()` (rule R730). -/
def Vic.cycle (k : MachineCfg) (mem : Memory) (v : Vic) : Vic := (v.drawGroup k mem).advance k

end Sys2Proof.Machine
end

