-- ==== Sys2Proof/Machine/Bus.lean ====
section
/-! DEFINITION. The address bus (spec 20_memory.md): the handler of every address, and the one-byte read and write cycles
that dispatch to it, with the interrupt callbacks of the timer/IO chips (60_exceptions.md rules R503 to R505). -/

namespace Sys2Proof.Machine

open Sys2Proof

/-! ### Handlers -/

/-- The handler kinds (rule R112). -/
inductive Handler where
  | ram (c : Addr)
  | rom (c : Addr)
  | colour (c : Addr)
  | vic (r : BitVec 4)
  | via (id : ViaId) (r : BitVec 4)
  | unconnected
  | composite (chips : ChipSet) (r : BitVec 4)
deriving DecidableEq, Repr

/-- The register index of a device access: the low four bits of the address (rule R135), or of its distance from the start
of a mapped range (rule R118; log entry 18). -/
def regIndex (a : Addr) : BitVec 4 := a.extractLsb' 0 4

/-- The handler of an alias address that selects the given chips (rule R134). -/
def aliasHandler (chips : ChipSet) (a : Addr) : Handler :=
  match chips.vic, chips.via1, chips.via2 with
  | false, false, false => .unconnected
  | true, false, false => .vic (regIndex a)
  | false, true, false => .via .via1 (regIndex a)
  | false, false, true => .via .via2 (regIndex a)
  | _, _, _ => .composite chips (regIndex a)

/-- `IO_DECODE(a)` (rule R134). -/
def ioDecodeAt (k : MachineCfg) (a : Addr) : ChipSet :=
  match k.ioDecode.find? (fun e => e.1 == a.toNat) with
  | some e => e.2
  | none => { vic := false, via1 := false, via2 := false }

/-- An optional RAM block (rule R130). -/
def optionalRam (present : Bool) (a : Addr) : Handler := if present then .ram a else .unconnected

/-- The address map of rule R130 for a MEM_CONFIG and an IO_DECODE. -/
def baseHandler (k : MachineCfg) (a : Addr) : Handler :=
  let n := a.toNat
  if n < 0x0400 then .ram a
  else if n < 0x0800 then optionalRam k.mem.ram0400 a
  else if n < 0x0C00 then optionalRam k.mem.ram0800 a
  else if n < 0x1000 then optionalRam k.mem.ram0C00 a
  else if n < 0x2000 then .ram a
  else if n < 0x4000 then optionalRam k.mem.ram2000 a
  else if n < 0x6000 then optionalRam k.mem.ram4000 a
  else if n < 0x8000 then optionalRam k.mem.ram6000 a
  else if n < 0x9000 then .rom a
  else if n < 0x9010 then .vic (regIndex a)
  else if n < 0x9110 then aliasHandler (ioDecodeAt k a) a
  else if n < 0x9120 then .via .via1 (regIndex a)
  else if n < 0x9130 then .via .via2 (regIndex a)
  else if n < 0x9400 then aliasHandler (ioDecodeAt k a) a
  else if n < 0x9800 then .colour a
  else if n < 0xA000 then .unconnected
  else if n < 0xC000 then
    match k.mem.cart with
    | .unconnected => .unconnected
    | .ram => .ram a
    | .rom => .rom a
  else .rom a

/-- The values of the low `n` bits whose set bits are a subset of `mask`, the greatest first (rule R118). -/
def subMasks (mask : Addr) : Nat → List Addr
  | 0 => [0]
  | n + 1 =>
    let low := subMasks mask n
    if mask.getLsbD n then low.map (fun m => m ||| (1#16 <<< n)) ++ low else low

/-- The handler a `map` call binds for the canonical address `c` (rule R118). A mapped device's register counts from the
start of the range, as rule R118 says, where rule R135 counts from the address: DESIGN CHOICE (log entry 18). -/
def MapEntry.bound (e : MapEntry) (c : Addr) : Handler :=
  match e.chip with
  | .ram => .ram c
  | .rom => .rom c
  | .colour => .colour c
  | .vic => .vic (regIndex (c - e.start))
  | .via id => .via id (regIndex (c - e.start))
  | .unconnected => .unconnected

/-- The handler a `map` call leaves at address `a`, if it covers it: the mirror written last wins (rule R118). -/
def MapEntry.target (e : MapEntry) (a : Addr) : Option Handler :=
  match (subMasks e.mirrorMask 16).find? (fun m => decide (e.start ≤ a - m ∧ a - m ≤ e.stop)) with
  | some m => some (e.bound (a - m))
  | none => none

/-- `handler[a]`: the latest `map` call that covers `a`, else the construction's address map (rules R51, R103, R118). -/
def State.handler (s : State) (a : Addr) : Handler :=
  match s.maps.findSome? (fun e => e.target a) with
  | some h => h
  | none => baseHandler s.cfg a

/-! ### The timer/IO chips on the bus -/

def State.via (s : State) : ViaId → Via
  | .via1 => s.via1
  | .via2 => s.via2

def State.setVia (s : State) : ViaId → Via → State
  | .via1, v => { s with via1 := v }
  | .via2, v => { s with via2 := v }

def HostInputs.chip (inp : HostInputs) : ViaId → ChipInputs
  | .via1 => inp.via1
  | .via2 => inp.via2

/-- The setter of the non-maskable line: a rising edge latches a request (rule R505). -/
def Lines.setNmi (level : Bool) (l : Lines) : Lines :=
  { l with nmiPending := l.nmiPending || (level && !l.nmiLevel), nmiLevel := level }

/-- The setter of the maskable line (rule R504). -/
def Lines.setIrq (level : Bool) (l : Lines) : Lines := { l with irqLevel := level }

/-- The line a chip's callback drives: VIA1 the non-maskable, VIA2 the maskable (rules R131, R503). -/
def Lines.callback (id : ViaId) (level : Bool) (l : Lines) : Lines :=
  match id with
  | .via1 => l.setNmi level
  | .via2 => l.setIrq level

/-- Stores a chip's new state and runs `update_irq()` (rule R605). -/
def State.updateVia (s : State) (id : ViaId) (v : Via) : State :=
  let s := s.setVia id v
  { s with lines := s.lines.callback id v.pinLevel }

/-- `via_read(r)` of one chip (rule R602). -/
def viaRead (id : ViaId) (r : BitVec 4) (s : State) : Byte × State :=
  ((s.via id).readValue (s.inputs.chip id) r, s.updateVia id ((s.via id).clearOnRead r))

/-- `via_write(r, v)` of one chip (rules R602, R612). -/
def viaWrite (id : ViaId) (r : BitVec 4) (x : Byte) (s : State) : State :=
  let v := s.via id
  let v' := v.write r x
  let s := { s with hostCalls := (Via.pinCalls id r v v').reverse ++ s.hostCalls }
  s.updateVia id v'

/-- A read of the video chip; it has no side effect (rule R701). -/
def vicRead (r : BitVec 4) (s : State) : Byte := s.vic.read s.inputs r

/-- A write of the video chip (rule R701). -/
def vicWrite (r : BitVec 4) (x : Byte) (s : State) : State := { s with vic := s.vic.write r x }

/-! ### Bus cycles -/

/-- One chip's part in a composite read: its value joins by OR and its side effects happen (rule R115). -/
def orRead (selected : Bool) (read : State → Byte × State) (p : Byte × State) : Byte × State :=
  if selected then
    let q := read p.2
    (p.1 ||| q.1, q.2)
  else p

/-- A read of a composite address: VIC, VIA1, VIA2 in that order (rule R115). -/
def compositeRead (chips : ChipSet) (r : BitVec 4) (s : State) : Byte × State :=
  orRead chips.via2 (viaRead .via2 r) (orRead chips.via1 (viaRead .via1 r) (orRead chips.vic (fun s => (vicRead r s, s)) (0, s)))

/-- A write of a composite address: every selected chip, in the same order (rule R115). -/
def compositeWrite (chips : ChipSet) (r : BitVec 4) (x : Byte) (s : State) : State :=
  let s := if chips.vic then vicWrite r x s else s
  let s := if chips.via1 then viaWrite .via1 r x s else s
  if chips.via2 then viaWrite .via2 r x s else s

/-- A read of colour RAM: the upper four bits float (rule R117). -/
def colourRead (k : MachineCfg) (mem : Memory) (c : Addr) : Byte := (rawRead mem c &&& 0x0F) ||| (k.float &&& 0xF0)

/-- `MemRead(a)`: one read cycle, with the read side effects of the handler (rules R13, R110, R113 to R117). -/
def busRead (a : Addr) (s : State) : Byte × State :=
  match s.handler a with
  | .ram c => (rawRead s.mem c, s)
  | .rom c => (rawRead s.mem c, s)
  | .colour c => (colourRead s.cfg s.mem c, s)
  | .vic r => (vicRead r s, s)
  | .via id r => viaRead id r s
  | .unconnected => (s.cfg.float, s)
  | .composite chips r => compositeRead chips r s

/-- `MemWrite(a, v)`: one write cycle (rules R13, R111, R113 to R117). -/
def busWrite (a : Addr) (x : Byte) (s : State) : State :=
  match s.handler a with
  | .ram c => { s with mem := rawWrite s.mem c x }
  | .rom _ => s
  | .colour c => { s with mem := rawWrite s.mem c (x &&& 0x0F) }
  | .vic r => vicWrite r x s
  | .via id r => viaWrite id r x s
  | .unconnected => s
  | .composite chips r => compositeWrite chips r x s

end Sys2Proof.Machine
end

