-- ==== Sys2Proof/Machine/Flags.lean ====
section
/-! DEFINITION. The flag computations and the arithmetic of the CPU: `setNZ` (rule R12), the status byte (rule R34), add
and subtract with carry in binary and decimal mode (rules R341, R342, R344), compare (rule R349), the modify functions of
the shifts (rules R380 to R383). All of them read and write the CPU's registers and flags only. -/

namespace Sys2Proof.Machine

open Sys2Proof

/-- `setNZ(v)` (rule R12). -/
def Cpu.setNZ (r : Byte) (c : Cpu) : Cpu := { c with n := r.getLsbD 7, z := r == 0 }

/-- `Pimage(b)`: the status byte N V 1 B D I Z C (rule R34). -/
def Cpu.pImage (c : Cpu) (b : Bool) : Byte :=
  BitVec.ofBool c.n ++ BitVec.ofBool c.v ++ 1#1 ++ BitVec.ofBool b ++ BitVec.ofBool c.d ++ BitVec.ofBool c.i ++
    BitVec.ofBool c.z ++ BitVec.ofBool c.c

/-- The flags from a pulled status byte; bits 5 and 4 are ignored (rule R34). -/
def Cpu.setP (p : Byte) (c : Cpu) : Cpu :=
  { c with n := p.getLsbD 7, v := p.getLsbD 6, d := p.getLsbD 3, i := p.getLsbD 2, z := p.getLsbD 1, c := p.getLsbD 0 }

/-- The carry flag as a number. -/
def Cpu.carry (c : Cpu) : Nat := if c.c then 1 else 0

/-- `A <- r; setNZ(A)`. -/
def Cpu.loadA (r : Byte) (c : Cpu) : Cpu := { c with a := r }.setNZ r

/-- `X <- r; setNZ(X)`. -/
def Cpu.loadX (r : Byte) (c : Cpu) : Cpu := { c with x := r }.setNZ r

/-- `Y <- r; setNZ(Y)`. -/
def Cpu.loadY (r : Byte) (c : Cpu) : Cpu := { c with y := r }.setNZ r

/-- `bcd_nv()`: N and V after a decimal add or subtract (rule R342). -/
def Cpu.bcdNV (p : BcdPolicy) (c : Cpu) : Cpu :=
  match p with
  | .clear => { c with n := false, v := false }
  | .preserve => c

/-- The binary half of `adc(m)` (rule R341). -/
def Cpu.adcBinary (m : Byte) (c : Cpu) : Cpu :=
  let sum := c.a.toNat + m.toNat + c.carry
  let r : Byte := BitVec.ofNat 8 sum
  { c with v := (~~~(c.a ^^^ m) &&& (c.a ^^^ r)).getLsbD 7, c := decide (sum > 0xFF) }.loadA r

/-- The digit-adjusted sum of rule R341: the result byte and the carry. -/
def bcdAdd (a m : Byte) (carry : Nat) : Byte × Bool :=
  let lo := a.toNat % 16 + m.toNat % 16 + carry
  let lo := if lo > 9 then lo + 6 else lo
  let hi := a.toNat / 16 + m.toNat / 16 + (if lo > 0x0F then 1 else 0)
  let hi := if hi > 9 then hi + 6 else hi
  (BitVec.ofNat 8 (hi * 16 + lo % 16), decide (hi > 0x0F))

/-- The decimal half of `adc(m)` (rule R341). -/
def Cpu.adcDecimal (p : BcdPolicy) (m : Byte) (c : Cpu) : Cpu :=
  let r := bcdAdd c.a m c.carry
  Cpu.bcdNV p { c with a := r.1, c := r.2, z := r.1 == 0 }

/-- `adc(m)` (rule R341). -/
def Cpu.adc (p : BcdPolicy) (m : Byte) (c : Cpu) : Cpu := if c.d then c.adcDecimal p m else c.adcBinary m

/-- No borrow, the C flag of a subtraction in both modes: `A - m - (1 - C) >= 0` (rule R344). -/
def Cpu.noBorrow (m : Byte) (c : Cpu) : Bool := decide (m.toNat + 1 ≤ c.a.toNat + c.carry)

/-- The binary half of `sbc(m)` (rule R344). -/
def Cpu.sbcBinary (m : Byte) (c : Cpu) : Cpu :=
  let r : Byte := BitVec.ofInt 8 ((c.a.toNat : Int) - m.toNat - (1 - c.carry))
  { c with v := ((c.a ^^^ m) &&& (c.a ^^^ r)).getLsbD 7, c := c.noBorrow m }.loadA r

/-- The digit-adjusted difference of rule R344. -/
def bcdSub (a m : Byte) (carry : Nat) : Byte :=
  let lo : Int := (a.toNat % 16 : Nat) - (m.toNat % 16 : Nat) - (1 - (carry : Int))
  let hi : Int := (a.toNat / 16 : Nat) - (m.toNat / 16 : Nat)
  let hi := if lo < 0 then hi - 1 else hi
  let lo := if lo < 0 then lo - 6 else lo
  let hi := if hi < 0 then hi - 6 else hi
  (BitVec.ofInt 8 hi <<< 4) ||| (BitVec.ofInt 8 lo &&& 0x0F)

/-- The decimal half of `sbc(m)` (rule R344). -/
def Cpu.sbcDecimal (p : BcdPolicy) (m : Byte) (c : Cpu) : Cpu :=
  let r := bcdSub c.a m c.carry
  Cpu.bcdNV p { c with a := r, c := c.noBorrow m, z := r == 0 }

/-- `sbc(m)` (rule R344). -/
def Cpu.sbc (p : BcdPolicy) (m : Byte) (c : Cpu) : Cpu := if c.d then c.sbcDecimal p m else c.sbcBinary m

/-- `compare(r, m)` (rule R349). -/
def Cpu.compare (r m : Byte) (c : Cpu) : Cpu := { c with c := decide (m.toNat ≤ r.toNat) }.setNZ (r - m)

/-- The bit test of BIT (rule R353). -/
def Cpu.bitTest (m : Byte) (c : Cpu) : Cpu := { c with z := (c.a &&& m) == 0, n := m.getLsbD 7, v := m.getLsbD 6 }

/-! ### Modify functions: the new byte, and the CPU with its flags -/

/-- `asl(v)` (rule R380). -/
def Cpu.asl (c : Cpu) (v : Byte) : Byte × Cpu :=
  let r := v <<< 1
  (r, { c with c := v.getLsbD 7 }.setNZ r)

/-- `lsr(v)` (rule R381). -/
def Cpu.lsr (c : Cpu) (v : Byte) : Byte × Cpu :=
  let r := v >>> 1
  (r, { c with c := v.getLsbD 0 }.setNZ r)

/-- `rol(v)` (rule R382). -/
def Cpu.rol (c : Cpu) (v : Byte) : Byte × Cpu :=
  let r : Byte := (v <<< 1) ||| (BitVec.ofBool c.c).setWidth 8
  (r, { c with c := v.getLsbD 7 }.setNZ r)

/-- `ror(v)` (rule R383). -/
def Cpu.ror (c : Cpu) (v : Byte) : Byte × Cpu :=
  let r : Byte := (v >>> 1) ||| ((BitVec.ofBool c.c).setWidth 8 <<< 7)
  (r, { c with c := v.getLsbD 0 }.setNZ r)

/-- The modify function of INC (rule R354). -/
def Cpu.incByte (c : Cpu) (v : Byte) : Byte × Cpu := (v + 1, c.setNZ (v + 1))

/-- The modify function of DEC (rule R355). -/
def Cpu.decByte (c : Cpu) (v : Byte) : Byte × Cpu := (v - 1, c.setNZ (v - 1))

/-- The bits of ARR: AND, rotate right through C, C from bit 6 and V from bits 6 and 5 (rule R445). -/
def Cpu.arr (m : Byte) (c : Cpu) : Cpu :=
  let t := c.a &&& m
  let r : Byte := (t >>> 1) ||| ((BitVec.ofBool c.c).setWidth 8 <<< 7)
  { c with c := r.getLsbD 6, v := r.getLsbD 6 != r.getLsbD 5 }.loadA r

/-- SBX: X becomes (A AND X) minus the operand, with C as in a compare (rule R446). -/
def Cpu.sbx (m : Byte) (c : Cpu) : Cpu :=
  let t := c.a &&& c.x
  { c with c := decide (m.toNat ≤ t.toNat) }.loadX (t - m)

end Sys2Proof.Machine
end

