-- ==== Sys2Proof/Machine/Ops.lean ====
section
/-! DEFINITION. The CPU stepper's shared operations (spec 30_encoding.md rules R180, R185, R187, R190 to R192,
60_exceptions.md rules R510 to R518): one CPU cycle, the end of a program with the boundary decision, the stack, taking
an interrupt and returning from one, the opcode fetch, the tick of the whole machine and the run of a program. -/

namespace Sys2Proof.Machine

open Sys2Proof

/-- The CPU's part of one tick: one bus access, its latch updates and, on the last cycle of a program, the semantic action
and what follows it (rules R180, R192). -/
abbrev Cycle := State → State

/-! ### The end of a cycle -/

/-- A cycle that is not the last: the step index advances (rule R191). -/
def advance (s : State) : State := { s with cpu := { s.cpu with t := s.cpu.t + 1 } }

/-- `boundary_decision()`: the next program (rules R510, R511, R512). -/
def boundaryNext (s : State) : Next :=
  if s.cpu.irqDelay then .fetch
  else if s.lines.nmiPending then .int .nmi
  else if s.lines.irqLevel && !s.cpu.i then .int .irq
  else .fetch

/-- The interrupt lines after `boundary_decision()`: selecting the NMI sequence clears its request (rules R505, R510). -/
def boundaryLines (s : State) : Lines :=
  if s.cpu.irqDelay then s.lines
  else { s.lines with nmiPending := false }

/-- The last cycle of an instruction or of TRAP: the boundary decision, and no program (rules R191, R510; t is then 0, log
entry 9). -/
def endInstr (s : State) : State :=
  { s with
    cpu := { s.cpu with next := boundaryNext s, irqDelay := false, prog := .none, t := 0 }
    lines := boundaryLines s }

/-- The last cycle of the interrupt sequence: an opcode fetch follows, with no boundary decision (rules R191, R516). -/
def endSequence (s : State) : State := { s with cpu := { s.cpu with next := .fetch, prog := .none, t := 0 } }

/-! ### Bus cycles of the CPU -/

/-- A read cycle at the address the CPU's latches give, the byte handed to the latch updates; `fin` ends the cycle. -/
def readCycle (fin : State → State) (addr : Cpu → Addr) (eff : Byte → Cpu → Cpu) : Cycle := fun s =>
  let r := busRead (addr s.cpu) s
  fin { r.2 with cpu := eff r.1 r.2.cpu }

/-- A write cycle: the byte written and the CPU after the cycle are computed from the registers as they stand. -/
def writeCycle (fin : State → State) (addr : Cpu → Addr) (out : Cpu → Byte × Cpu) : Cycle := fun s =>
  let o := out s.cpu
  fin { busWrite (addr s.cpu) o.1 s with cpu := o.2 }

/-- PC + 1 mod 65536 (rule R32). -/
def Cpu.incPc (c : Cpu) : Cpu := { c with pc := c.pc + 1 }

/-- A fetch from PC with PC++ (rules R32, R180). -/
def fetchByte (fin : State → State) (eff : Byte → Cpu → Cpu) : Cycle :=
  readCycle fin (fun c => c.pc) (fun b c => eff b c.incPc)

/-- A dummy read at PC, which does not advance it (rule R180). -/
def dummyAtPc : Cycle := readCycle advance (fun c => c.pc) (fun _ c => c)

/-! ### The stack (rule R185) -/

/-- The stack byte addressed by S (rule R31). -/
def Cpu.stackAddr (c : Cpu) : Addr := mk16 0x01 c.s

/-- `push(v)`: write at S, then S - 1. -/
def pushCycle (fin : State → State) (v : Cpu → Byte) : Cycle :=
  writeCycle fin Cpu.stackAddr (fun c => (v c, { c with s := c.s - 1 }))

/-- `pull`: S + 1, then read at S. -/
def pullCycle (fin : State → State) (eff : Byte → Cpu → Cpu) : Cycle :=
  readCycle fin (fun c => mk16 0x01 (c.s + 1)) (fun b c => eff b { c with s := c.s + 1 })

/-- A dummy stack read, S unchanged. -/
def dummyStack : Cycle := readCycle advance Cpu.stackAddr (fun _ c => c)

/-- The pushes of PC, high byte first. -/
def pushPcHigh : Cycle := pushCycle advance (fun c => hiByte c.pc)
def pushPcLow : Cycle := pushCycle advance (fun c => loByte c.pc)

/-- `PC <- {byte, ADL}`, the byte also kept in ADH. -/
def Cpu.jumpHigh (hi : Byte) (c : Cpu) : Cpu := { c with adh := hi, pc := mk16 hi c.adl }

/-! ### Taking an interrupt and returning (rules R187, R513, R518) -/

/-- The vector of an interrupt kind (rules R133, R514). -/
def vectorOf : IntKind → Addr
  | .nmi => 0xFFFA
  | .irq => 0xFFFE

/-- Entry through a vector, cycles 3 to 7 of BRK and of the interrupt sequence: push PC high, PC low and the status byte
with the given B bit; I <- 1; PC from the vector, low byte first (rules R187, R402, R513). -/
def enterThroughVector (fin : State → State) (b : Bool) (vector : Addr) : List Cycle :=
  [ pushPcHigh
  , pushPcLow
  , pushCycle advance (fun c => c.pImage b)
  , readCycle advance (fun _ => vector) (fun v c => { c with adl := v, i := true })
  , readCycle fin (fun _ => vector + 1) (fun v c => c.jumpHigh v) ]

/-- Cycle 1 of the interrupt sequence: a dummy read at PC in place of the opcode fetch (rules R187, R191). -/
def interruptStart (kind : IntKind) : Cycle :=
  readCycle id (fun c => c.pc) (fun _ c => { c with prog := .intSeq kind, t := 2 })

/-- The interrupt-acknowledge sequence `INTSEQ(kind)`, all seven cycles: TAKING AN INTERRUPT (rules R187, R513). -/
def interruptSequence (kind : IntKind) : List Cycle :=
  interruptStart kind :: dummyAtPc :: enterThroughVector endSequence false (vectorOf kind)

/-- RETURNING FROM AN INTERRUPT, cycles 2 to 6 of RTI: pull the status byte and PC, with no adjustment (rules R186, R403,
R518). -/
def returnFromInterrupt : List Cycle :=
  [ dummyAtPc
  , dummyStack
  , pullCycle advance (fun v c => c.setP v)
  , pullCycle advance (fun v c => { c with adl := v })
  , pullCycle endInstr (fun v c => c.jumpHigh v) ]

/-! ### The opcode fetch (rules R191, R203) -/

/-- Whether an instruction runs as a no-op: its opcode is undocumented and its UNDOC_POLICY is NOP (rules R430, R431). -/
def runsAsNop (k : MachineCfg) (i : Instr) : Bool := i.undocumented && k.undocNop.contains i.opcode

/-- The trap registered at an address (rule R42). -/
def State.trapAt (s : State) (a : Addr) : Option TrapRecord :=
  match s.traps.find? (fun e => e.1 == a) with
  | some e => some e.2
  | none => none

/-- The program an instruction is while it is in progress (rule R36). -/
def progOf (i : Instr) : Prog := if i = .trap then .trap else .instr i.opcode

/-- Cycle 1 of an instruction: the opcode fetch, the program selected, and the diagnostic count of an opcode run as a
no-op (rules R191, R431). -/
def fetchCycle (i : Instr) : Cycle := fun s =>
  fetchByte id
    (fun _ c =>
      { c with
        prog := progOf i, t := 2, undocCount := if runsAsNop s.cfg i then c.undocCount + 1 else c.undocCount }) s

/-- The instruction the opcode fetch of this CPU cycle selects: TRAP where a trap is registered at PC and the byte is
TRAP_OPCODE, else the row of the opcode map (rules R191, R203). -/
def fetchedInstr (s : State) : Instr :=
  let op := (busRead s.cpu.pc s).1
  if (s.trapAt s.cpu.pc).isSome && op == s.cfg.trapOpcode then .trap else decodeOpcode op

/-! ### The tick (rules R80, R81, R525) -/

/-- What the host presents for this tick (rules R81, R97). -/
def drawInputs (s : State) : State :=
  match s.script with
  | [] => s
  | i :: rest => { s with inputs := i, script := rest }

/-- The video chip's part of a tick (rule R730). -/
def vicCycle (s : State) : State := { s with vic := s.vic.cycle s.cfg s.mem }

/-- A timer/IO chip's part of a tick, with its callback (rule R620). -/
def viaCycle (id : ViaId) (s : State) : State := s.updateVia id ((s.via id).cycle (s.inputs.chip id))

/-- One tick of the machine with the given CPU cycle: the video chip, the CPU, VIA1, VIA2 (rule R80). -/
def tickWith (c : Cycle) (s : State) : State := viaCycle .via2 (viaCycle .via1 (c (vicCycle (drawInputs s))))

/-- Runs a program tick by tick until its last cycle has left the CPU without a program (rules R36, R191). -/
def runCycles : List Cycle → State → State
  | [], s => s
  | c :: cs, s =>
    let s' := tickWith c s
    match s'.cpu.prog with
    | .none => s'
    | _ => runCycles cs s'

/-- The answer of a meaning: the instruction's opcode fetch and the cycles `body` after it, to the last one. No
instruction stops the machine (rules R84, R500). -/
def runInstr (i : Instr) (body : List Cycle) (s : State) : Host.Outcome State Fault Refusal :=
  .next (runCycles (fetchCycle i :: body) s)

end Sys2Proof.Machine
end

