-- ==== Sys2Proof/Machine/Operands.lean ====
section
/-! DEFINITION. The addressing modes and the cycle tables of the access classes (spec 30_encoding.md rules R173, R182, R183,
R184, R185): the cycles after the opcode fetch, given the semantic action. -/

namespace Sys2Proof.Machine

open Sys2Proof

/-- The modes with an operand in memory at an effective address (rule R173). -/
inductive MemMode where
  | zp | zpx | zpy | abs | absx | absy | izx | izy
deriving DecidableEq, Repr

/-- The modes of the read class: the operand in the instruction, or in memory (rule R182). -/
inductive ReadMode where
  | imm
  | mem (m : MemMode)
deriving DecidableEq, Repr

/-! ### The modes of each instruction as shared modes -/

def readModeOfAlu : AluMode → ReadMode
  | .imm => .imm | .zp => .mem .zp | .zpx => .mem .zpx | .abs => .mem .abs | .absx => .mem .absx | .absy => .mem .absy
  | .izx => .mem .izx | .izy => .mem .izy

def memModeOfStore : StoreMode → MemMode
  | .zp => .zp | .zpx => .zpx | .abs => .abs | .absx => .absx | .absy => .absy | .izx => .izx | .izy => .izy

def readModeOfLdx : LdxMode → ReadMode
  | .imm => .imm | .zp => .mem .zp | .zpy => .mem .zpy | .abs => .mem .abs | .absy => .mem .absy

def readModeOfLdy : LdyMode → ReadMode
  | .imm => .imm | .zp => .mem .zp | .zpx => .mem .zpx | .abs => .mem .abs | .absx => .mem .absx

def memModeOfStx : StxMode → MemMode
  | .zp => .zp | .zpy => .zpy | .abs => .abs

def memModeOfSty : StyMode → MemMode
  | .zp => .zp | .zpx => .zpx | .abs => .abs

def readModeOfCpx : CpxMode → ReadMode
  | .imm => .imm | .zp => .mem .zp | .abs => .mem .abs

def memModeOfBit : BitMode → MemMode
  | .zp => .zp | .abs => .abs

def memModeOfInc : IncMode → MemMode
  | .zp => .zp | .zpx => .zpx | .abs => .abs | .absx => .absx

/-- The memory mode of a shift; none for the accumulator form. -/
def memModeOfShift : ShiftMode → Option MemMode
  | .acc => none | .zp => some .zp | .zpx => some .zpx | .abs => some .abs | .absx => some .absx

/-- The read mode of an undocumented NOP; none for the implied form. -/
def readModeOfNop : NopMode → Option ReadMode
  | .imp => none | .imm => some .imm | .zp => some (.mem .zp) | .zpx => some (.mem .zpx) | .abs => some (.mem .abs)
  | .absx => some (.mem .absx)

def memModeOfSax : SaxMode → MemMode
  | .zp => .zp | .zpy => .zpy | .abs => .abs | .izx => .izx

def memModeOfLax : LaxMode → MemMode
  | .zp => .zp | .zpy => .zpy | .abs => .abs | .absy => .absy | .izx => .izx | .izy => .izy

def memModeOfSha : ShaMode → MemMode
  | .izy => .izy | .absy => .absy

/-! ### Effective addresses -/

/-- A zero-page address (rule R172). -/
def zeroPage (b : Byte) : Addr := mk16 0x00 b

/-- Whether a mode's address lies in page 0, so that its bus address is `{0x00, ADL}` (rules R173, R174). -/
def MemMode.inZeroPage : MemMode → Bool
  | .zp | .zpx | .zpy => true
  | .abs | .absx | .absy | .izx | .izy => false

/-- Whether a mode adds an index to a 16-bit base, with the carry into the high byte in a cycle of its own (rule R174). -/
def MemMode.carries : MemMode → Bool
  | .absx | .absy | .izy => true
  | .zp | .zpx | .zpy | .abs | .izx => false

/-- The bus address the latches hold for a mode. -/
def MemMode.latched (m : MemMode) (c : Cpu) : Addr := if m.inZeroPage then zeroPage c.adl else mk16 c.adh c.adl

/-- The address of the operand as rule R173 gives it, `peek a` being the byte a read of `a` returns: the operand bytes
stand at `pc` and after it. -/
def effectiveAddress (peek : Addr → Byte) (pc : Addr) (x y : Byte) : MemMode → Addr
  | .zp => zeroPage (peek pc)
  | .zpx => zeroPage (peek pc + x)
  | .zpy => zeroPage (peek pc + y)
  | .abs => mk16 (peek (pc + 1)) (peek pc)
  | .absx => mk16 (peek (pc + 1)) (peek pc) + x.setWidth 16
  | .absy => mk16 (peek (pc + 1)) (peek pc) + y.setWidth 16
  | .izx => mk16 (peek (zeroPage (peek pc + x + 1))) (peek (zeroPage (peek pc + x)))
  | .izy => mk16 (peek (zeroPage (peek pc + 1))) (peek (zeroPage (peek pc))) + y.setWidth 16

/-! ### Operand cycles -/

/-- ADL <- byte, PC++. -/
def fetchAdl : Cycle := fetchByte advance (fun b c => { c with adl := b })

/-- ADH <- byte, PC++. -/
def fetchAdh : Cycle := fetchByte advance (fun b c => { c with adh := b })

/-- PTR <- byte, PC++. -/
def fetchPtr : Cycle := fetchByte advance (fun b c => { c with ptr := b })

/-- The index addition into ADL, its carry kept in CROSS (rule R182). -/
def Cpu.indexAdl (idx : Byte) (c : Cpu) : Cpu :=
  { c with adl := c.adl + idx, cross := decide (c.adl.toNat + idx.toNat > 255) }

/-- ADH <- byte, PC++; index addition (rule R182, absx and absy cycle 3). -/
def fetchAdhIndexed (idx : Cpu → Byte) : Cycle :=
  fetchByte advance (fun b c => { c with adh := b }.indexAdl (idx c))

/-- The dummy read at the unindexed zero-page address; ADL <- (ADL + index) mod 256 (rule R182, zpx and zpy cycle 3). -/
def indexZeroPage (idx : Cpu → Byte) : Cycle :=
  readCycle advance (fun c => zeroPage c.adl) (fun _ c => { c with adl := c.adl + idx c })

/-- The dummy read at the pointer; PTR <- (PTR + X) mod 256 (rule R182, izx cycle 3). -/
def indexPtr : Cycle := readCycle advance (fun c => zeroPage c.ptr) (fun _ c => { c with ptr := c.ptr + c.x })

/-- ADL <- the pointer's low byte. -/
def readPtrLow : Cycle := readCycle advance (fun c => zeroPage c.ptr) (fun b c => { c with adl := b })

/-- ADH <- the pointer's high byte, which wraps within page 0 (rule R174). -/
def readPtrHigh : Cycle := readCycle advance (fun c => zeroPage (c.ptr + 1)) (fun b c => { c with adh := b })

/-- ADH <- the pointer's high byte; Y addition (rule R182, izy cycle 4). -/
def readPtrHighIndexed : Cycle :=
  readCycle advance (fun c => zeroPage (c.ptr + 1)) (fun b c => { c with adh := b }.indexAdl c.y)

/-- The cycles from cycle 2 that leave the operand's address in the latches, without the carry into ADH. -/
def addressCycles : MemMode → List Cycle
  | .zp => [fetchAdl]
  | .zpx => [fetchAdl, indexZeroPage (fun c => c.x)]
  | .zpy => [fetchAdl, indexZeroPage (fun c => c.y)]
  | .abs => [fetchAdl, fetchAdh]
  | .absx => [fetchAdl, fetchAdhIndexed (fun c => c.x)]
  | .absy => [fetchAdl, fetchAdhIndexed (fun c => c.y)]
  | .izx => [fetchPtr, indexPtr, readPtrLow, readPtrHigh]
  | .izy => [fetchPtr, readPtrLow, readPtrHighIndexed]

/-- ADH <- (ADH + 1) mod 256 if the index addition crossed a page. -/
def Cpu.fixHigh (c : Cpu) : Cpu := if c.cross then { c with adh := c.adh + 1 } else c

/-- The dummy read at the un-carried address, and the carry into ADH (rules R183, R184). -/
def carryCycle (m : MemMode) : Cycle := readCycle advance m.latched (fun _ c => c.fixHigh)

/-- The carry cycle of the modes that have one in every class but the read class. -/
def carryCycles (m : MemMode) : List Cycle := if m.carries then [carryCycle m] else []

/-! ### The read class (rule R182) -/

/-- The cycle that reads the operand and runs the semantic action; EA keeps the operand's address. -/
def operandCycle (m : MemMode) (act : Byte → Cpu → Cpu) : Cycle :=
  readCycle endInstr m.latched (fun b c => act b { c with data := b, ea := m.latched c })

/-- The read at the un-carried address: the last cycle if no page was crossed, else a dummy with the carry. -/
def uncarriedCycle (m : MemMode) (act : Byte → Cpu → Cpu) : Cycle := fun s =>
  if s.cpu.cross then carryCycle m s else operandCycle m act s

/-- The read-class program of a mode, with the semantic action of the instruction. -/
def readBody (m : ReadMode) (act : Byte → Cpu → Cpu) : List Cycle :=
  match m with
  | .imm => [fetchByte endInstr (fun b c => act b { c with data := b })]
  | .mem m =>
    addressCycles m ++ (if m.carries then [uncarriedCycle m act, operandCycle m act] else [operandCycle m act])

/-! ### The write class (rule R183) -/

/-- The write-class program of a mode: the last cycle writes at `addr` the byte `out` computes. -/
def writeBodyAt (m : MemMode) (addr : Cpu → Addr) (out : Cpu → Byte × Cpu) : List Cycle :=
  addressCycles m ++ carryCycles m ++
    [writeCycle endInstr addr (fun c => ((out c).1, { (out c).2 with ea := m.latched c }))]

/-- The write-class program of a store of a register-derived byte at the effective address. -/
def writeBody (m : MemMode) (value : Cpu → Byte) : List Cycle := writeBodyAt m m.latched (fun c => (value c, c))

/-- The write-class program of an opcode run as a no-op: the final write is a read of EA, discarded (rule R431). -/
def noWriteBody (m : MemMode) : List Cycle := addressCycles m ++ carryCycles m ++ [operandCycle m (fun _ c => c)]

/-! ### The read-modify-write class (rule R184) -/

/-- DATA <- the operand byte. -/
def readDataCycle (m : MemMode) : Cycle :=
  readCycle advance m.latched (fun b c => { c with data := b, ea := m.latched c })

/-- The dummy write of the unmodified byte. -/
def writeOldCycle (m : MemMode) : Cycle := writeCycle advance m.latched (fun c => (c.data, c))

/-- The write of the modified byte, with the semantic action. -/
def writeNewCycle (m : MemMode) (f : Cpu → Byte → Byte × Cpu) : Cycle :=
  writeCycle endInstr m.latched (fun c => f c c.data)

/-- The read-modify-write program of a memory mode with the modify function `f`. -/
def rmwBody (m : MemMode) (f : Cpu → Byte → Byte × Cpu) : List Cycle :=
  addressCycles m ++ carryCycles m ++ [readDataCycle m, writeOldCycle m, writeNewCycle m f]

/-- The read-modify-write program of an opcode run as a no-op: both writes are reads of EA, discarded (log entry 7). -/
def noRmwBody (m : MemMode) : List Cycle :=
  addressCycles m ++ carryCycles m ++ [readDataCycle m, readDataCycle m, operandCycle m (fun _ c => c)]

/-- The accumulator form: a dummy read at PC, then `A <- f(A)` (rule R184). -/
def accBody (f : Cpu → Byte → Byte × Cpu) : List Cycle :=
  [readCycle endInstr (fun c => c.pc) (fun _ c => { (f c c.a).2 with a := (f c c.a).1 })]

/-! ### Implied (rule R185) -/

/-- The implied program: a dummy read at PC, then the semantic action. -/
def impliedBody (act : Cpu → Cpu) : List Cycle := [readCycle endInstr (fun c => c.pc) (fun _ c => act c)]

end Sys2Proof.Machine
end

