-- ==== Sys2Proof/Machine/ArithLogic.lean ====
section
/-! DEFINITION. Arithmetic, logic, compare and increment instructions (spec 42_arithmetic_logic.md). -/

namespace Sys2Proof.Machine

open Sys2Proof

/-- ADC: `adc(M)` (rule R340). -/
def adcBody (k : MachineCfg) (m : AluMode) : List Cycle := readBody (readModeOfAlu m) (fun v c => c.adc k.bcdNV v)

def execAdc (m : AluMode) (s : State) : Host.Outcome State Fault Refusal :=
  runInstr (.adc m) (adcBody s.cfg m) s

/-- SBC: `sbc(M)` (rule R343). -/
def sbcBody (k : MachineCfg) (m : AluMode) : List Cycle := readBody (readModeOfAlu m) (fun v c => c.sbc k.bcdNV v)

def execSbc (m : AluMode) (s : State) : Host.Outcome State Fault Refusal :=
  runInstr (.sbc m) (sbcBody s.cfg m) s

/-- AND: `A <- A & M; setNZ(A)` (rule R346). -/
def andBody (m : AluMode) : List Cycle := readBody (readModeOfAlu m) (fun v c => c.loadA (c.a &&& v))

def execAnd (m : AluMode) (s : State) : Host.Outcome State Fault Refusal :=
  runInstr (.and m) (andBody m) s

/-- ORA: `A <- A | M; setNZ(A)` (rule R347). -/
def oraBody (m : AluMode) : List Cycle := readBody (readModeOfAlu m) (fun v c => c.loadA (c.a ||| v))

def execOra (m : AluMode) (s : State) : Host.Outcome State Fault Refusal :=
  runInstr (.ora m) (oraBody m) s

/-- EOR: `A <- A ^ M; setNZ(A)` (rule R348). -/
def eorBody (m : AluMode) : List Cycle := readBody (readModeOfAlu m) (fun v c => c.loadA (c.a ^^^ v))

def execEor (m : AluMode) (s : State) : Host.Outcome State Fault Refusal :=
  runInstr (.eor m) (eorBody m) s

/-- CMP: `compare(A, M)` (rule R350). -/
def cmpBody (m : AluMode) : List Cycle := readBody (readModeOfAlu m) (fun v c => c.compare c.a v)

def execCmp (m : AluMode) (s : State) : Host.Outcome State Fault Refusal :=
  runInstr (.cmp m) (cmpBody m) s

/-- CPX: `compare(X, M)` (rule R351). -/
def cpxBody (m : CpxMode) : List Cycle := readBody (readModeOfCpx m) (fun v c => c.compare c.x v)

def execCpx (m : CpxMode) (s : State) : Host.Outcome State Fault Refusal :=
  runInstr (.cpx m) (cpxBody m) s

/-- CPY: `compare(Y, M)` (rule R352). -/
def cpyBody (m : CpxMode) : List Cycle := readBody (readModeOfCpx m) (fun v c => c.compare c.y v)

def execCpy (m : CpxMode) (s : State) : Host.Outcome State Fault Refusal :=
  runInstr (.cpy m) (cpyBody m) s

/-- BIT: Z from A & M, N and V from bits 7 and 6 of M (rule R353). -/
def bitBody (m : BitMode) : List Cycle := readBody (.mem (memModeOfBit m)) Cpu.bitTest

def execBit (m : BitMode) (s : State) : Host.Outcome State Fault Refusal :=
  runInstr (.bit m) (bitBody m) s

/-- INC: `f(v) = (v + 1) mod 256` (rule R354). -/
def incBody (m : IncMode) : List Cycle := rmwBody (memModeOfInc m) Cpu.incByte

def execInc (m : IncMode) (s : State) : Host.Outcome State Fault Refusal :=
  runInstr (.inc m) (incBody m) s

/-- DEC: `f(v) = (v - 1) mod 256` (rule R355). -/
def decBody (m : IncMode) : List Cycle := rmwBody (memModeOfInc m) Cpu.decByte

def execDec (m : IncMode) (s : State) : Host.Outcome State Fault Refusal :=
  runInstr (.dec m) (decBody m) s

/-- INX: `X <- (X + 1) mod 256; setNZ(X)` (rule R356). -/
def inxBody : List Cycle := impliedBody (fun c => c.loadX (c.x + 1))

def execInx (s : State) : Host.Outcome State Fault Refusal :=
  runInstr .inx inxBody s

/-- INY: `Y <- (Y + 1) mod 256; setNZ(Y)` (rule R357). -/
def inyBody : List Cycle := impliedBody (fun c => c.loadY (c.y + 1))

def execIny (s : State) : Host.Outcome State Fault Refusal :=
  runInstr .iny inyBody s

/-- DEX: `X <- (X - 1) mod 256; setNZ(X)` (rule R358). -/
def dexBody : List Cycle := impliedBody (fun c => c.loadX (c.x - 1))

def execDex (s : State) : Host.Outcome State Fault Refusal :=
  runInstr .dex dexBody s

/-- DEY: `Y <- (Y - 1) mod 256; setNZ(Y)` (rule R359). -/
def deyBody : List Cycle := impliedBody (fun c => c.loadY (c.y - 1))

def execDey (s : State) : Host.Outcome State Fault Refusal :=
  runInstr .dey deyBody s

end Sys2Proof.Machine
end

