-- ==== Sys2Proof/Machine/ControlTransfer.lean ====
section
/-! DEFINITION. Branch, jump, subroutine and interrupt-return instructions (spec 44_control_transfer.md). -/

namespace Sys2Proof.Machine

open Sys2Proof

/-- `T`: the branch target, from the address after the operand byte (rules R173, R189). -/
def Cpu.branchTarget (c : Cpu) : Addr := c.pc + sext c.off

/-- Cycle 3 of a taken branch: in the same page the last, setting `irq_delay`; else PC takes the target's low byte (rules
R189, R390). EA keeps the target `T` for cycle 4: no rule names a latch for it, DESIGN CHOICE (log entry 19). -/
def branchTaken : Cycle := fun s =>
  if hiByte s.cpu.branchTarget = hiByte s.cpu.pc then
    readCycle endInstr (fun c => c.pc) (fun _ c => { c with pc := c.branchTarget, ea := c.branchTarget, irqDelay := true }) s
  else
    readCycle advance (fun c => c.pc)
      (fun _ c => { c with pc := mk16 (hiByte c.pc) (loByte c.branchTarget), ea := c.branchTarget }) s

/-- The cycles of a branch: the offset, the last cycle if the condition fails; the target; the page fix (rule R189). -/
def branchBody (cond : Cpu → Bool) : List Cycle :=
  [ fun s => fetchByte (if cond s.cpu then advance else endInstr) (fun b c => { c with off := b }) s
  , branchTaken
  , readCycle endInstr (fun c => c.pc) (fun _ c => { c with pc := c.ea }) ]

/-- BPL: branch if N = 0 (rule R391). -/
def bplBody : List Cycle := branchBody (fun c => !c.n)

def execBpl (s : State) : Host.Outcome State Fault Refusal :=
  runInstr .bpl bplBody s

/-- BMI: branch if N = 1 (rule R392). -/
def bmiBody : List Cycle := branchBody (fun c => c.n)

def execBmi (s : State) : Host.Outcome State Fault Refusal :=
  runInstr .bmi bmiBody s

/-- BVC: branch if V = 0 (rule R393). -/
def bvcBody : List Cycle := branchBody (fun c => !c.v)

def execBvc (s : State) : Host.Outcome State Fault Refusal :=
  runInstr .bvc bvcBody s

/-- BVS: branch if V = 1 (rule R394). -/
def bvsBody : List Cycle := branchBody (fun c => c.v)

def execBvs (s : State) : Host.Outcome State Fault Refusal :=
  runInstr .bvs bvsBody s

/-- BCC: branch if C = 0 (rule R395). -/
def bccBody : List Cycle := branchBody (fun c => !c.c)

def execBcc (s : State) : Host.Outcome State Fault Refusal :=
  runInstr .bcc bccBody s

/-- BCS: branch if C = 1 (rule R396). -/
def bcsBody : List Cycle := branchBody (fun c => c.c)

def execBcs (s : State) : Host.Outcome State Fault Refusal :=
  runInstr .bcs bcsBody s

/-- BNE: branch if Z = 0 (rule R397). -/
def bneBody : List Cycle := branchBody (fun c => !c.z)

def execBne (s : State) : Host.Outcome State Fault Refusal :=
  runInstr .bne bneBody s

/-- BEQ: branch if Z = 1 (rule R398). -/
def beqBody : List Cycle := branchBody (fun c => c.z)

def execBeq (s : State) : Host.Outcome State Fault Refusal :=
  runInstr .beq beqBody s

/-- JMP: PC from the operand, or from the pointer whose high byte comes from the same page (rules R188, R399). DATA keeps
`lo` between the last two cycles: no rule names a latch for it, DESIGN CHOICE (log entry 19). -/
def jmpBody (m : JmpMode) : List Cycle :=
  match m with
  | .abs => [fetchAdl, readCycle endInstr (fun c => c.pc) (fun b c => c.jumpHigh b)]
  | .ind =>
    [ fetchAdl
    , fetchAdh
    , readCycle advance (fun c => mk16 c.adh c.adl) (fun b c => { c with data := b })
    , readCycle endInstr (fun c => mk16 c.adh (c.adl + 1)) (fun b c => { c with pc := mk16 b c.data }) ]

def execJmp (m : JmpMode) (s : State) : Host.Outcome State Fault Refusal :=
  runInstr (.jmp m) (jmpBody m) s

/-- JSR: push the address of its own last byte, then fetch that byte and jump (rules R186, R400). -/
def jsrBody : List Cycle :=
  [fetchAdl, dummyStack, pushPcHigh, pushPcLow, readCycle endInstr (fun c => c.pc) (fun b c => c.jumpHigh b)]

def execJsr (s : State) : Host.Outcome State Fault Refusal :=
  runInstr .jsr jsrBody s

/-- RTS: pull PC and add 1 (rules R186, R401). -/
def rtsBody : List Cycle :=
  [ dummyAtPc
  , dummyStack
  , pullCycle advance (fun v c => { c with adl := v })
  , pullCycle advance (fun v c => c.jumpHigh v)
  , readCycle endInstr (fun c => c.pc) (fun _ c => c.incPc) ]

def execRts (s : State) : Host.Outcome State Fault Refusal :=
  runInstr .rts rtsBody s

/-- BRK: skip a byte, then enter through the IRQ/BRK vector with B = 1 (rules R187, R402, R501). -/
def brkBody : List Cycle :=
  fetchByte advance (fun _ c => c) :: enterThroughVector endInstr true (vectorOf .irq)

def execBrk (s : State) : Host.Outcome State Fault Refusal :=
  runInstr .brk brkBody s

/-- RTI: the shared return from interrupt (rules R186, R403, R518). -/
def rtiBody : List Cycle := returnFromInterrupt

def execRti (s : State) : Host.Outcome State Fault Refusal :=
  runInstr .rti rtiBody s

end Sys2Proof.Machine
end

