-- ==== Sys2Proof/Machine/FlagsNop.lean ====
section
/-! DEFINITION. Flag instructions and NOP (spec 45_flags_and_nop.md). -/

namespace Sys2Proof.Machine

open Sys2Proof

/-- CLC: `C <- 0` (rule R420). -/
def clcBody : List Cycle := impliedBody (fun c => { c with c := false })

def execClc (s : State) : Host.Outcome State Fault Refusal :=
  runInstr .clc clcBody s

/-- SEC: `C <- 1` (rule R421). -/
def secBody : List Cycle := impliedBody (fun c => { c with c := true })

def execSec (s : State) : Host.Outcome State Fault Refusal :=
  runInstr .sec secBody s

/-- CLI: `I <- 0`, seen by its own boundary decision (rule R422). -/
def cliBody : List Cycle := impliedBody (fun c => { c with i := false })

def execCli (s : State) : Host.Outcome State Fault Refusal :=
  runInstr .cli cliBody s

/-- SEI: `I <- 1`, seen by its own boundary decision (rule R423). -/
def seiBody : List Cycle := impliedBody (fun c => { c with i := true })

def execSei (s : State) : Host.Outcome State Fault Refusal :=
  runInstr .sei seiBody s

/-- CLD: `D <- 0` (rule R424). -/
def cldBody : List Cycle := impliedBody (fun c => { c with d := false })

def execCld (s : State) : Host.Outcome State Fault Refusal :=
  runInstr .cld cldBody s

/-- SED: `D <- 1` (rule R425). -/
def sedBody : List Cycle := impliedBody (fun c => { c with d := true })

def execSed (s : State) : Host.Outcome State Fault Refusal :=
  runInstr .sed sedBody s

/-- CLV: `V <- 0` (rule R426). -/
def clvBody : List Cycle := impliedBody (fun c => { c with v := false })

def execClv (s : State) : Host.Outcome State Fault Refusal :=
  runInstr .clv clvBody s

/-- NOP: no operation (rule R427). -/
def nopBody : List Cycle := impliedBody (fun c => c)

def execNop (s : State) : Host.Outcome State Fault Refusal :=
  runInstr .nop nopBody s

end Sys2Proof.Machine
end

