-- ==== Sys2Proof/Machine/LoadStore.lean ====
section
/-! DEFINITION. Load and store instructions (spec 40_load_store.md). -/

namespace Sys2Proof.Machine

open Sys2Proof

/-- LDA: `A <- M; setNZ(A)` (rule R300). -/
def ldaBody (m : AluMode) : List Cycle := readBody (readModeOfAlu m) Cpu.loadA

def execLda (m : AluMode) (s : State) : Host.Outcome State Fault Refusal :=
  runInstr (.lda m) (ldaBody m) s

/-- LDX: `X <- M; setNZ(X)` (rule R301). -/
def ldxBody (m : LdxMode) : List Cycle := readBody (readModeOfLdx m) Cpu.loadX

def execLdx (m : LdxMode) (s : State) : Host.Outcome State Fault Refusal :=
  runInstr (.ldx m) (ldxBody m) s

/-- LDY: `Y <- M; setNZ(Y)` (rule R302). -/
def ldyBody (m : LdyMode) : List Cycle := readBody (readModeOfLdy m) Cpu.loadY

def execLdy (m : LdyMode) (s : State) : Host.Outcome State Fault Refusal :=
  runInstr (.ldy m) (ldyBody m) s

/-- STA: `MemWrite(EA, A)` (rule R303). -/
def staBody (m : StoreMode) : List Cycle := writeBody (memModeOfStore m) (fun c => c.a)

def execSta (m : StoreMode) (s : State) : Host.Outcome State Fault Refusal :=
  runInstr (.sta m) (staBody m) s

/-- STX: `MemWrite(EA, X)` (rule R304). -/
def stxBody (m : StxMode) : List Cycle := writeBody (memModeOfStx m) (fun c => c.x)

def execStx (m : StxMode) (s : State) : Host.Outcome State Fault Refusal :=
  runInstr (.stx m) (stxBody m) s

/-- STY: `MemWrite(EA, Y)` (rule R305). -/
def styBody (m : StyMode) : List Cycle := writeBody (memModeOfSty m) (fun c => c.y)

def execSty (m : StyMode) (s : State) : Host.Outcome State Fault Refusal :=
  runInstr (.sty m) (styBody m) s

end Sys2Proof.Machine
end

