-- ==== Sys2Proof/Machine/ShiftRotate.lean ====
section
/-! DEFINITION. Shift and rotate instructions (spec 43_shift_rotate.md). -/

namespace Sys2Proof.Machine

open Sys2Proof

/-- The accumulator form or the read-modify-write form of a shift (rule R184). -/
def shiftBody (f : Cpu → Byte → Byte × Cpu) (m : ShiftMode) : List Cycle :=
  match memModeOfShift m with
  | none => accBody f
  | some mm => rmwBody mm f

/-- ASL: the modify function `asl` (rule R380). -/
def aslBody (m : ShiftMode) : List Cycle := shiftBody Cpu.asl m

def execAsl (m : ShiftMode) (s : State) : Host.Outcome State Fault Refusal :=
  runInstr (.asl m) (aslBody m) s

/-- LSR: the modify function `lsr` (rule R381). -/
def lsrBody (m : ShiftMode) : List Cycle := shiftBody Cpu.lsr m

def execLsr (m : ShiftMode) (s : State) : Host.Outcome State Fault Refusal :=
  runInstr (.lsr m) (lsrBody m) s

/-- ROL: the modify function `rol` (rule R382). -/
def rolBody (m : ShiftMode) : List Cycle := shiftBody Cpu.rol m

def execRol (m : ShiftMode) (s : State) : Host.Outcome State Fault Refusal :=
  runInstr (.rol m) (rolBody m) s

/-- ROR: the modify function `ror` (rule R383). -/
def rorBody (m : ShiftMode) : List Cycle := shiftBody Cpu.ror m

def execRor (m : ShiftMode) (s : State) : Host.Outcome State Fault Refusal :=
  runInstr (.ror m) (rorBody m) s

end Sys2Proof.Machine
end

