-- ==== Sys2Proof/Machine/TransferStack.lean ====
section
/-! DEFINITION. Register transfer and stack instructions (spec 41_transfer_stack.md). -/

namespace Sys2Proof.Machine

open Sys2Proof

/-- TAX: `X <- A; setNZ(X)` (rule R320). -/
def taxBody : List Cycle := impliedBody (fun c => c.loadX c.a)

def execTax (s : State) : Host.Outcome State Fault Refusal :=
  runInstr .tax taxBody s

/-- TAY: `Y <- A; setNZ(Y)` (rule R321). -/
def tayBody : List Cycle := impliedBody (fun c => c.loadY c.a)

def execTay (s : State) : Host.Outcome State Fault Refusal :=
  runInstr .tay tayBody s

/-- TXA: `A <- X; setNZ(A)` (rule R322). -/
def txaBody : List Cycle := impliedBody (fun c => c.loadA c.x)

def execTxa (s : State) : Host.Outcome State Fault Refusal :=
  runInstr .txa txaBody s

/-- TYA: `A <- Y; setNZ(A)` (rule R323). -/
def tyaBody : List Cycle := impliedBody (fun c => c.loadA c.y)

def execTya (s : State) : Host.Outcome State Fault Refusal :=
  runInstr .tya tyaBody s

/-- TSX: `X <- S; setNZ(X)` (rule R324). -/
def tsxBody : List Cycle := impliedBody (fun c => c.loadX c.s)

def execTsx (s : State) : Host.Outcome State Fault Refusal :=
  runInstr .tsx tsxBody s

/-- TXS: `S <- X`, no flag (rule R325). -/
def txsBody : List Cycle := impliedBody (fun c => { c with s := c.x })

def execTxs (s : State) : Host.Outcome State Fault Refusal :=
  runInstr .txs txsBody s

/-- PHA: `push(A)` (rules R185, R326). -/
def phaBody : List Cycle := [dummyAtPc, pushCycle endInstr (fun c => c.a)]

def execPha (s : State) : Host.Outcome State Fault Refusal :=
  runInstr .pha phaBody s

/-- PHP: `push(Pimage(1))` (rules R185, R327). -/
def phpBody : List Cycle := [dummyAtPc, pushCycle endInstr (fun c => c.pImage true)]

def execPhp (s : State) : Host.Outcome State Fault Refusal :=
  runInstr .php phpBody s

/-- PLA: `A <- pull(); setNZ(A)` (rules R185, R328). -/
def plaBody : List Cycle := [dummyAtPc, dummyStack, pullCycle endInstr (fun v c => { c with data := v }.loadA v)]

def execPla (s : State) : Host.Outcome State Fault Refusal :=
  runInstr .pla plaBody s

/-- PLP: the flags from the pulled byte (rules R185, R329). -/
def plpBody : List Cycle := [dummyAtPc, dummyStack, pullCycle endInstr (fun v c => { c with data := v }.setP v)]

def execPlp (s : State) : Host.Outcome State Fault Refusal :=
  runInstr .plp plpBody s

end Sys2Proof.Machine
end

