-- ==== Sys2Proof/Machine/Trap.lean ====
section
/-! DEFINITION. The instrumentation trap as an instruction (spec 46_undocumented_and_trap.md rule R456). -/

namespace Sys2Proof.Machine

open Sys2Proof

/-- A bus access a callback makes: it takes no tick (rule R456). -/
def callbackAccess (s : State) : BusAccess → State
  | .read a => (busRead a s).2
  | .write a v => busWrite a v s

/-- The trap action: the callback registered at the trap's address, PC - 1, runs; PC becomes the value it returns, if it
returns one. A trap removed since the fetch has no callback to run (rule R456; log entry 8). -/
def trapAction (s : State) : State :=
  let a := s.cpu.pc - 1
  match s.trapAt a with
  | none => s
  | some r =>
    let s := { s with hostCalls := .trapCallback r.callback a :: s.hostCalls }
    let s := s.inputs.callbackRun.accesses.foldl callbackAccess s
    match s.inputs.callbackRun.newPc with
    | some pc => { s with cpu := { s.cpu with pc := pc } }
    | none => s

/-- TRAP: a dummy read at PC, then the trap action and the boundary decision (rules R203, R456). -/
def trapBody : List Cycle :=
  [readCycle (fun s => endInstr (trapAction s)) (fun c => c.pc) (fun _ c => c)]

def execTrap (s : State) : Host.Outcome State Fault Refusal :=
  runInstr .trap trapBody s

end Sys2Proof.Machine
end

