-- ==== Sys2Proof/Machine/Undocumented.lean ====
section
/-! DEFINITION. Undocumented opcodes (spec 46_undocumented_and_trap.md rules R430 to R454): under the policy REFERENCE
each runs its own action, under NOP its bus pattern without one (rules R431, R432). -/

namespace Sys2Proof.Machine

open Sys2Proof

/-- The program of an undocumented opcode: its reference program, or its no-op program where its policy is NOP (rules R430
to R432). -/
def byPolicy (k : MachineCfg) (i : Instr) (reference asNop : List Cycle) : List Cycle :=
  if runsAsNop k i then asNop else reference

/-- A read-class undocumented opcode; as a no-op it discards its operand (rule R431). -/
def readByPolicy (k : MachineCfg) (i : Instr) (m : ReadMode) (act : Byte → Cpu → Cpu) : List Cycle :=
  byPolicy k i (readBody m act) (readBody m (fun _ c => c))

/-- A combined read-modify-write opcode (rule R432). -/
def combinedBody (k : MachineCfg) (i : Instr) (m : StoreMode) (f : Cpu → Byte → Byte × Cpu) : List Cycle :=
  byPolicy k i (rmwBody (memModeOfStore m) f) (noRmwBody (memModeOfStore m))

/-- `(H + 1) mod 256`, H the high byte of the base address: ADH already holds it when the index addition carried (rule
R451). -/
def Cpu.highPlusOne (c : Cpu) : Byte := if c.cross then c.adh else c.adh + 1

/-- Where the unstable stores write the value v: EA, or `{v, EA[7:0]}` when the index addition crossed a page (rule
R451). -/
def Cpu.unstableAddr (v : Byte) (c : Cpu) : Addr := mk16 (if c.cross then v else c.adh) c.adl

/-- The unstable stores SHA SHX SHY TAS (rules R451 to R454). -/
def unstableStore (k : MachineCfg) (i : Instr) (m : MemMode) (out : Cpu → Byte × Cpu) : List Cycle :=
  byPolicy k i (writeBodyAt m (fun c => c.unstableAddr (out c).1) out) (noWriteBody m)

/-- JAM: a dummy read and nothing else, under both policies (rules R431, R433). -/
def jamBody : List Cycle := impliedBody (fun c => c)

def execJam (op : Byte) (s : State) : Host.Outcome State Fault Refusal :=
  runInstr (.jam op) jamBody s

/-- The undocumented NOPs: the operand is read and discarded, under both policies (rule R434). -/
def nopUndocBody (m : NopMode) : List Cycle :=
  match readModeOfNop m with
  | none => impliedBody (fun c => c)
  | some rm => readBody rm (fun _ c => c)

def execNopUndoc (m : NopMode) (op : Byte) (s : State) : Host.Outcome State Fault Refusal :=
  runInstr (.nopUndoc m op) (nopUndocBody m) s

/-- SLO: `r <- asl(DATA)`; write r; `A <- A | r; setNZ(A)` (rule R435). -/
def sloBody (k : MachineCfg) (m : StoreMode) : List Cycle :=
  combinedBody k (.slo m) m (fun c v =>
    let r := c.asl v
    (r.1, r.2.loadA (r.2.a ||| r.1)))

def execSlo (m : StoreMode) (s : State) : Host.Outcome State Fault Refusal :=
  runInstr (.slo m) (sloBody s.cfg m) s

/-- RLA: `r <- rol(DATA)`; write r; `A <- A & r; setNZ(A)` (rule R436). -/
def rlaBody (k : MachineCfg) (m : StoreMode) : List Cycle :=
  combinedBody k (.rla m) m (fun c v =>
    let r := c.rol v
    (r.1, r.2.loadA (r.2.a &&& r.1)))

def execRla (m : StoreMode) (s : State) : Host.Outcome State Fault Refusal :=
  runInstr (.rla m) (rlaBody s.cfg m) s

/-- SRE: `r <- lsr(DATA)`; write r; `A <- A ^ r; setNZ(A)` (rule R437). -/
def sreBody (k : MachineCfg) (m : StoreMode) : List Cycle :=
  combinedBody k (.sre m) m (fun c v =>
    let r := c.lsr v
    (r.1, r.2.loadA (r.2.a ^^^ r.1)))

def execSre (m : StoreMode) (s : State) : Host.Outcome State Fault Refusal :=
  runInstr (.sre m) (sreBody s.cfg m) s

/-- RRA: `r <- ror(DATA)`; write r; `adc(r)` (rule R438). The addition takes the carry the rotation produced; N and V are
`adc`'s alone, so that under BCD_NV_POLICY = PRESERVE they keep what they held before the instruction (rule R342; log entry 15). -/
def rraBody (k : MachineCfg) (m : StoreMode) : List Cycle :=
  combinedBody k (.rra m) m (fun c v =>
    let r := c.ror v
    (r.1, { c with c := r.2.c }.adc k.bcdNV r.1))

def execRra (m : StoreMode) (s : State) : Host.Outcome State Fault Refusal :=
  runInstr (.rra m) (rraBody s.cfg m) s

/-- DCP: `r <- (DATA - 1) mod 256`; write r; `compare(A, r)` (rule R441). -/
def dcpBody (k : MachineCfg) (m : StoreMode) : List Cycle :=
  combinedBody k (.dcp m) m (fun c v =>
    (v - 1, c.compare c.a (v - 1)))

def execDcp (m : StoreMode) (s : State) : Host.Outcome State Fault Refusal :=
  runInstr (.dcp m) (dcpBody s.cfg m) s

/-- ISC: `r <- (DATA + 1) mod 256`; write r; `sbc(r)` (rule R442). -/
def iscBody (k : MachineCfg) (m : StoreMode) : List Cycle :=
  combinedBody k (.isc m) m (fun c v =>
    (v + 1, c.sbc k.bcdNV (v + 1)))

def execIsc (m : StoreMode) (s : State) : Host.Outcome State Fault Refusal :=
  runInstr (.isc m) (iscBody s.cfg m) s

/-- SAX: `MemWrite(EA, A & X)` (rule R439). -/
def saxBody (k : MachineCfg) (m : SaxMode) : List Cycle :=
  byPolicy k (.sax m) (writeBody (memModeOfSax m) (fun c => c.a &&& c.x)) (noWriteBody (memModeOfSax m))

def execSax (m : SaxMode) (s : State) : Host.Outcome State Fault Refusal :=
  runInstr (.sax m) (saxBody s.cfg m) s

/-- LAX: `A <- M; X <- M; setNZ(M)` (rule R440). -/
def laxBody (k : MachineCfg) (m : LaxMode) : List Cycle :=
  readByPolicy k (.lax m) (.mem (memModeOfLax m)) (fun v c => { c with x := v }.loadA v)

def execLax (m : LaxMode) (s : State) : Host.Outcome State Fault Refusal :=
  runInstr (.lax m) (laxBody s.cfg m) s

/-- ANC: `A <- A & M; setNZ(A); C <- A[7]` (rule R443). -/
def ancBody (k : MachineCfg) (op : Byte) : List Cycle :=
  readByPolicy k (.anc op) .imm (fun v c => { c with c := (c.a &&& v).getLsbD 7 }.loadA (c.a &&& v))

def execAnc (op : Byte) (s : State) : Host.Outcome State Fault Refusal :=
  runInstr (.anc op) (ancBody s.cfg op) s

/-- ALR: `A <- lsr(A & M)` (rule R444). -/
def alrBody (k : MachineCfg) : List Cycle :=
  readByPolicy k .alr .imm (fun v c => { (c.lsr (c.a &&& v)).2 with a := (c.lsr (c.a &&& v)).1 })

def execAlr (s : State) : Host.Outcome State Fault Refusal :=
  runInstr .alr (alrBody s.cfg) s

/-- ARR: AND, rotate right, C and V from the result, binary whatever D is (rule R445). -/
def arrBody (k : MachineCfg) : List Cycle := readByPolicy k .arr .imm Cpu.arr

def execArr (s : State) : Host.Outcome State Fault Refusal :=
  runInstr .arr (arrBody s.cfg) s

/-- SBX: `X <- (A & X) - M`, C as in a compare (rule R446). -/
def sbxBody (k : MachineCfg) : List Cycle := readByPolicy k .sbx .imm Cpu.sbx

def execSbx (s : State) : Host.Outcome State Fault Refusal :=
  runInstr .sbx (sbxBody s.cfg) s

/-- USBC: `sbc(M)` (rule R447). -/
def usbcBody (k : MachineCfg) : List Cycle := readByPolicy k .usbc .imm (fun v c => c.sbc k.bcdNV v)

def execUsbc (s : State) : Host.Outcome State Fault Refusal :=
  runInstr .usbc (usbcBody s.cfg) s

/-- LAS: `v <- M & S`; A, X and S <- v; `setNZ(v)` (rule R448). -/
def lasBody (k : MachineCfg) : List Cycle :=
  readByPolicy k .las (.mem .absy) (fun v c => { c with x := v &&& c.s, s := v &&& c.s }.loadA (v &&& c.s))

def execLas (s : State) : Host.Outcome State Fault Refusal :=
  runInstr .las (lasBody s.cfg) s

/-- ANE: under REFERENCE `A <- (A | ANE_MAGIC) & X & M; setNZ(A)` (rule R449). -/
def aneBody (k : MachineCfg) : List Cycle :=
  readByPolicy k .ane .imm (fun v c => c.loadA ((c.a ||| k.aneMagic) &&& c.x &&& v))

def execAne (s : State) : Host.Outcome State Fault Refusal :=
  runInstr .ane (aneBody s.cfg) s

/-- LXA: under REFERENCE `v <- (A | LXA_MAGIC) & M`; A and X <- v; `setNZ(v)` (rule R450). -/
def lxaBody (k : MachineCfg) : List Cycle :=
  readByPolicy k .lxa .imm (fun v c =>
    { c with x := (c.a ||| k.lxaMagic) &&& v }.loadA ((c.a ||| k.lxaMagic) &&& v))

def execLxa (s : State) : Host.Outcome State Fault Refusal :=
  runInstr .lxa (lxaBody s.cfg) s

/-- SHA: under REFERENCE the value `A & X & (H + 1)` (rule R451). -/
def shaBody (k : MachineCfg) (m : ShaMode) : List Cycle :=
  unstableStore k (.sha m) (memModeOfSha m) (fun c => (c.a &&& c.x &&& c.highPlusOne, c))

def execSha (m : ShaMode) (s : State) : Host.Outcome State Fault Refusal :=
  runInstr (.sha m) (shaBody s.cfg m) s

/-- SHX: under REFERENCE the value `X & (H + 1)` (rule R452). -/
def shxBody (k : MachineCfg) : List Cycle := unstableStore k .shx .absy (fun c => (c.x &&& c.highPlusOne, c))

def execShx (s : State) : Host.Outcome State Fault Refusal :=
  runInstr .shx (shxBody s.cfg) s

/-- SHY: under REFERENCE the value `Y & (H + 1)` (rule R453). -/
def shyBody (k : MachineCfg) : List Cycle := unstableStore k .shy .absx (fun c => (c.y &&& c.highPlusOne, c))

def execShy (s : State) : Host.Outcome State Fault Refusal :=
  runInstr .shy (shyBody s.cfg) s

/-- TAS: under REFERENCE `S <- A & X` and the value `S & (H + 1)` (rule R454). -/
def tasBody (k : MachineCfg) : List Cycle :=
  unstableStore k .tas .absy (fun c => (c.a &&& c.x &&& c.highPlusOne, { c with s := c.a &&& c.x }))

def execTas (s : State) : Host.Outcome State Fault Refusal :=
  runInstr .tas (tasBody s.cfg) s

end Sys2Proof.Machine
end

