-- ==== Sys2Proof/Machine/Programs.lean ====
section
/-! DEFINITION. The micro-op program of every instruction and of the interrupt sequence, by its name `prog` (rules R36,
R181, R191). -/

namespace Sys2Proof.Machine

open Sys2Proof

/-- The cycles of an instruction after its opcode fetch (rules R182 to R189). -/
def body (k : MachineCfg) : Instr → List Cycle
  | .lda m => ldaBody m
  | .ldx m => ldxBody m
  | .ldy m => ldyBody m
  | .sta m => staBody m
  | .stx m => stxBody m
  | .sty m => styBody m
  | .tax => taxBody
  | .tay => tayBody
  | .txa => txaBody
  | .tya => tyaBody
  | .tsx => tsxBody
  | .txs => txsBody
  | .pha => phaBody
  | .php => phpBody
  | .pla => plaBody
  | .plp => plpBody
  | .adc m => adcBody k m
  | .sbc m => sbcBody k m
  | .and m => andBody m
  | .ora m => oraBody m
  | .eor m => eorBody m
  | .cmp m => cmpBody m
  | .cpx m => cpxBody m
  | .cpy m => cpyBody m
  | .bit m => bitBody m
  | .inc m => incBody m
  | .dec m => decBody m
  | .inx => inxBody
  | .iny => inyBody
  | .dex => dexBody
  | .dey => deyBody
  | .asl m => aslBody m
  | .lsr m => lsrBody m
  | .rol m => rolBody m
  | .ror m => rorBody m
  | .bpl => bplBody
  | .bmi => bmiBody
  | .bvc => bvcBody
  | .bvs => bvsBody
  | .bcc => bccBody
  | .bcs => bcsBody
  | .bne => bneBody
  | .beq => beqBody
  | .jmp m => jmpBody m
  | .jsr => jsrBody
  | .rts => rtsBody
  | .brk => brkBody
  | .rti => rtiBody
  | .clc => clcBody
  | .sec => secBody
  | .cli => cliBody
  | .sei => seiBody
  | .cld => cldBody
  | .sed => sedBody
  | .clv => clvBody
  | .nop => nopBody
  | .jam _ => jamBody
  | .nopUndoc m _ => nopUndocBody m
  | .slo m => sloBody k m
  | .rla m => rlaBody k m
  | .sre m => sreBody k m
  | .rra m => rraBody k m
  | .sax m => saxBody k m
  | .lax m => laxBody k m
  | .dcp m => dcpBody k m
  | .isc m => iscBody k m
  | .anc op => ancBody k op
  | .alr => alrBody k
  | .arr => arrBody k
  | .sbx => sbxBody k
  | .usbc => usbcBody k
  | .las => lasBody k
  | .ane => aneBody k
  | .lxa => lxaBody k
  | .sha m => shaBody k m
  | .shx => shxBody k
  | .shy => shyBody k
  | .tas => tasBody k
  | .trap => trapBody

/-- The whole program of an instruction, the opcode fetch first. -/
def instrProgram (k : MachineCfg) (i : Instr) : List Cycle := fetchCycle i :: body k i

/-- The program in progress (rule R36); none between programs. -/
def progCycles (k : MachineCfg) : Prog → List Cycle
  | .none => []
  | .instr op => instrProgram k (decodeOpcode op)
  | .intSeq kind => interruptSequence kind
  | .trap => instrProgram k .trap

end Sys2Proof.Machine
end

