-- ==== Sys2Proof/Machine/Tick.lean ====
section
/-! DEFINITION. One tick of the machine, cycle by cycle (10_state.md rule R80, 30_encoding.md rule R191). -/

namespace Sys2Proof.Machine

open Sys2Proof

/-- Cycle number `t` of a program, from 1; no cycle bears another number (rule R36). -/
def cycleAt (cs : List Cycle) : Nat → Cycle
  | 0 => id
  | t + 1 => cs.getD t id

/-- `Cpu.emulateCycle()` (rule R191). -/
def cpuCycle : Cycle := fun s =>
  match s.cpu.prog with
  | .none =>
    match s.cpu.next with
    | .fetch => fetchCycle (fetchedInstr s) s
    | .int kind => interruptStart kind s
  | p => cycleAt (progCycles s.cfg p) s.cpu.t s

/-- `Machine.tick()`: the video chip, the CPU, VIA1, VIA2, each once (rule R80). -/
def tick (s : State) : State := tickWith cpuCycle s

/-- `n` ticks. -/
def ticks : Nat → State → State
  | 0, s => s
  | n + 1, s => ticks n (tick s)

end Sys2Proof.Machine
end

