-- ==== Sys2Proof/Machine/HostOps.lean ====
section
/-! DEFINITION. The host's operations between ticks (10_state.md rules R82, R90, 20_memory.md rules R118, R119,
46_undocumented_and_trap.md rule R455, 62_video_chip.md rules R736, R737). -/

namespace Sys2Proof.Machine

open Sys2Proof

/-- `force_write(a, v)` (rule R119). -/
def forceWrite (a : Addr) (v : Byte) (s : State) : State := { s with mem := rawWrite s.mem a v }

/-- `map(chip, start, end, mirror_mask, initial_data)` (rule R118). Data longer than the range is cut at its end, and shorter
data leaves the cells beyond it as they were: the rule gives data of the range's own length, DESIGN CHOICE (log entry 20). The call comes after `boot`, or between ticks: rule
R812 gives it no place in the boot order, DESIGN CHOICE (log entry 21). -/
def mapChip (e : MapEntry) (initialData : List Byte) (s : State) : State :=
  { s with
    maps := e :: s.maps
    mem := rawWriteBytes s.mem e.start (initialData.take (e.stop.toNat + 1 - e.start.toNat)) }

/-- `register_trap(a, cb)`: registering again replaces the callback and keeps the first saved byte (rule R455). -/
def registerTrap (a : Addr) (callback : Nat) (s : State) : State :=
  match s.trapAt a with
  | some r =>
    { s with traps := (a, { r with callback := callback }) :: s.traps.filter (fun e => e.1 != a) }
  | none =>
    forceWrite a s.cfg.trapOpcode
      { s with traps := (a, { saved := rawRead s.mem a, callback := callback }) :: s.traps }

/-- `remove_trap(a)` (rule R455). -/
def removeTrap (a : Addr) (s : State) : State :=
  match s.trapAt a with
  | some r => forceWrite a r.saved { s with traps := s.traps.filter (fun e => e.1 != a) }
  | none => s

/-- What the host presents from now on, and in each of the ticks to come (rules R83, R97). -/
def present (inputs : HostInputs) (script : List HostInputs) (s : State) : State :=
  { s with inputs := inputs, script := script }

/-- `frame_complete_query()`: the signal, consumed by the query (rule R736). -/
def frameCompleteQuery (s : State) : Bool × State :=
  (s.vic.frameComplete, { s with vic := { s.vic with frameComplete := false } })

/-- `get_framebuffer()`: the presented frame in row-major order; the signal is cleared (rule R737). -/
def getFramebuffer (s : State) : List (BitVec 4) × State :=
  ((List.range (s.cfg.variant.totalWidth * s.cfg.variant.totalHeight)).map (fun i => Sparse.read s.vic.shown i),
    { s with vic := { s.vic with frameComplete := false } })

/-- `cycles` of `update`: the elapsed seconds `num / den` times CYCLES_PER_SECOND, rounded with halves up; none where
that is not positive (rule R82; log entry 12). -/
def updateCycles (v : Variant) (num : Int) (den : Nat) : Nat :=
  ((2 * num * v.cyclesPerSecond + den) / (2 * den)).toNat

/-- Ticks with a frame-complete query after each, the answers joined by OR (rule R82). -/
def runQueried : Nat → State → Bool × State
  | 0, s => (false, s)
  | n + 1, s =>
    let q := frameCompleteQuery (tick s)
    let r := runQueried n q.2
    (q.1 || r.1, r.2)

/-- `Machine.update(elapsed_seconds)`, the elapsed seconds being `num / den` (rule R82). -/
def update (num : Int) (den : Nat) (s : State) : Bool × State := runQueried (updateCycles s.cfg.variant num den) s

/-! ### Placing an instruction by hand -/

/-- Stores a byte where a read of `a` finds it: in the cell of a RAM or ROM handler; elsewhere a RAM cell is mapped at
`a` first. -/
def State.placeByte (s : State) (a : Addr) (b : Byte) : State :=
  match s.handler a with
  | .ram c => forceWrite c b s
  | .rom c => forceWrite c b s
  | _ => forceWrite a b { s with maps := { chip := .ram, start := a, stop := a, mirrorMask := 0 } :: s.maps }

/-- Stores bytes at consecutive addresses, the first one last, so that it stands whatever cells the others share. -/
def State.placeBytes (s : State) (a : Addr) : List Byte → State
  | [] => s
  | b :: bs => (State.placeBytes s (a + 1) bs).placeByte a b

/-- The machine at an instruction boundary that fetches next, with no trap at PC. -/
def State.atFetch (s : State) : State :=
  { s with
    cpu := { s.cpu with prog := .none, t := 0, next := .fetch }
    traps := s.traps.filter (fun e => e.1 != s.cpu.pc) }

end Sys2Proof.Machine
end

