-- ==== Sys2Proof/Machine/Step.lean ====
section
/-! DEFINITION. One step: the CPU's next program, run tick by tick from the cycle it stands at to its last (log entry 3).
The step is the tick of rule R80 iterated to the next program boundary. -/

namespace Sys2Proof.Machine

open Sys2Proof

/-- One step. At a program boundary it is the instruction at PC, or the interrupt sequence the last boundary decision
selected; inside a program it is the cycles that are left (rules R36, R191). -/
def step (s : State) : Host.Outcome State Fault Refusal :=
  match s.cpu.prog with
  | .none =>
    match s.cpu.next with
    | .fetch => exec (fetchedInstr (vicCycle (drawInputs s))) s
    | .int kind => .next (runCycles (interruptSequence kind) s)
  | p =>
    if 1 ≤ s.cpu.t ∧ s.cpu.t ≤ (progCycles s.cfg p).length then
      .next (runCycles ((progCycles s.cfg p).drop (s.cpu.t - 1)) s)
    else .fault .stepIndexOutOfBounds

/-- The machine with the instruction whose bits are `w` at PC, about to fetch it (log entry 6). -/
def State.withFetchWord (s : State) (nbits w : Nat) : State := s.atFetch.placeBytes s.cpu.pc (wordBytes nbits w)

end Sys2Proof.Machine
end

