-- ==== Sys2Proof/Machine/Boot.lean ====
section
/-! DEFINITION. Construction of a machine: the reset, the program load and the snapshot load (70_reset_and_hazards.md rules
R800 to R812). -/

namespace Sys2Proof.Machine

open Sys2Proof

/-! ### Memory at reset -/

/-- The host-supplied ROM images (rule R132). `cart` is used when MEM_CONFIG makes the cartridge range ROM. -/
structure RomImages where
  char : List Byte
  basic : List Byte
  kernal : List Byte
  cart : List Byte
deriving DecidableEq, Repr

/-- The images of a machine with zero-filled ROMs. -/
def RomImages.empty : RomImages := { char := [], basic := [], kernal := [], cart := [] }

/-- `mem` at reset: zero, with the ROM images in their ranges (rules R132, R801). An image longer than rule R132 says is cut,
and one shorter leaves zeros, which for the cartridge is the rule's own padding: DESIGN CHOICE for the others (log entry
20). -/
def romMemory (k : MachineCfg) (roms : RomImages) : Memory :=
  let m := rawWriteBytes [] 0x8000 (roms.char.take 4096)
  let m := rawWriteBytes m 0xC000 (roms.basic.take 8192)
  let m := rawWriteBytes m 0xE000 (roms.kernal.take 8192)
  match k.mem.cart with
  | .rom => rawWriteBytes m 0xA000 (roms.cart.take 8192)
  | .ram | .unconnected => m

/-! ### Program load (rule R811) -/

/-- What the program loader supplies. -/
inductive ProgramLoad where
  | cartridge (bytes : List Byte)
  | basic (bytes : List Byte)
  | rawRam (bytes : List Byte)
deriving DecidableEq, Repr

/-- The "well-formed when" column of rule R811. -/
def ProgramLoad.wellFormed : ProgramLoad → Bool
  | .cartridge bs => decide (1 ≤ bs.length) && decide (bs.length ≤ 8192)
  | .basic (lo :: hi :: rest) => decide ((mk16 hi lo).toNat + rest.length ≤ 65536)
  | .basic _ => false
  | .rawRam bs => decide (bs.length ≤ 65536)

/-- The parameters with a cartridge image in place: its range is ROM (rules R811, R812 step 1). -/
def withCartridge (k : MachineCfg) : MachineCfg := { k with mem := { k.mem with cart := .rom } }

/-- Whether a handler is RAM. -/
def Handler.isRam : Handler → Bool
  | .ram _ => true
  | _ => false

/-- The raw RAM image: byte i to address i where the handler of i is RAM. -/
def loadRawRam (k : MachineCfg) : Memory → Addr → List Byte → Memory
  | m, _, [] => m
  | m, a, b :: bs => loadRawRam k (if (baseHandler k a).isRam then rawWrite m a b else m) (a + 1) bs

/-- The parameters and the memory after the program entry of boot step 3; a malformed entry changes nothing. -/
def applyProgram (k : MachineCfg) (m : Memory) (p : ProgramLoad) : MachineCfg × Memory :=
  if p.wellFormed then
    match p with
    | .cartridge bs => (withCartridge k, rawWriteBytes m 0xA000 (bs ++ List.replicate (8192 - bs.length) 0))
    | .basic (lo :: hi :: rest) => (k, rawWriteBytes m (mk16 hi lo) rest)
    | .basic _ => (k, m)
    | .rawRam bs => (k, loadRawRam k m 0 bs)
  else (k, m)

/-! ### Reset -/

/-- The reset vector (rule R802). -/
def resetVector (m : Memory) : Addr := mk16 (rawRead m 0xFFFD) (rawRead m 0xFFFC)

/-- The machine of boot steps 4 and 5: every chip and the CPU reset over the given memory (rules R802, R803). -/
def resetWith (k : MachineCfg) (m : Memory) : State :=
  { cpu := Cpu.reset (resetVector m), lines := Lines.reset, traps := [], mem := m, maps := [],
    via1 := Via.reset, via2 := Via.reset, vic := Vic.reset, cfg := k,
    inputs := HostInputs.idle, script := [], hostCalls := [] }

/-! ### Snapshot load (rule R810) -/

/-- The register set of one timer/IO chip in a snapshot. -/
structure ViaSnapshot where
  ora : Nat
  orb : Nat
  ddra : Nat
  ddrb : Nat
  t1c : Nat
  t1l : Nat
  t2c : Nat
  t2ll : Nat
  sr : Nat
  acr : Nat
  pcr : Nat
  ifr : Nat
  ier : Nat
  t1Armed : Option Bool
  t2Armed : Option Bool
deriving DecidableEq, Repr

/-- The decoded struct of the snapshot loader; its register values are numbers, whose widths the load checks (rule R810;
log entry 13). -/
structure Snapshot where
  image : List Byte
  a : Nat
  x : Nat
  y : Nat
  s : Nat
  pc : Nat
  n : Bool
  v : Bool
  d : Bool
  i : Bool
  z : Bool
  c : Bool
  via1 : ViaSnapshot
  via2 : ViaSnapshot
  hcount : Nat
  vcount : Nat
deriving DecidableEq, Repr

/-- Every register value of a chip fits its width; IFR and IER are bytes, as every register (rules R601, R810). -/
def ViaSnapshot.wellFormed (v : ViaSnapshot) : Bool :=
  [v.ora, v.orb, v.ddra, v.ddrb, v.t2ll, v.sr, v.acr, v.pcr, v.ifr, v.ier].all (fun b => decide (b < 256)) &&
    [v.t1c, v.t1l, v.t2c].all (fun w => decide (w < 65536))

/-- A well-formed snapshot for a variant. -/
def Snapshot.wellFormed (k : MachineCfg) (n : Snapshot) : Bool :=
  n.image.length == 65536 && [n.a, n.x, n.y, n.s].all (fun b => decide (b < 256)) && decide (n.pc < 65536) &&
    n.via1.wellFormed && n.via2.wellFormed &&
    decide (n.hcount < k.variant.totalWidth) && decide (n.vcount < k.variant.totalHeight)

/-- The CPU of a snapshot (rule R810 item 2). -/
def Snapshot.cpu (n : Snapshot) (c : Cpu) : Cpu :=
  { c with
    a := BitVec.ofNat 8 n.a, x := BitVec.ofNat 8 n.x, y := BitVec.ofNat 8 n.y, s := BitVec.ofNat 8 n.s
    pc := BitVec.ofNat 16 n.pc
    n := n.n, v := n.v, d := n.d, i := n.i, z := n.z, c := n.c
    prog := .none, t := 0, next := .fetch, irqDelay := false
    adl := 0, adh := 0, ptr := 0, data := 0, ea := 0, cross := false, off := 0 }

/-- A timer/IO chip of a snapshot (rule R810 item 3): of IFR and IER bits 6 to 0 are taken, and a one-shot is armed unless
the snapshot says otherwise. -/
def ViaSnapshot.load (n : ViaSnapshot) (v : Via) : Via :=
  { v with
    ora := BitVec.ofNat 8 n.ora, orb := BitVec.ofNat 8 n.orb
    ddra := BitVec.ofNat 8 n.ddra, ddrb := BitVec.ofNat 8 n.ddrb
    t1c := BitVec.ofNat 16 n.t1c, t1l := BitVec.ofNat 16 n.t1l
    t2c := BitVec.ofNat 16 n.t2c, t2ll := BitVec.ofNat 8 n.t2ll
    sr := BitVec.ofNat 8 n.sr, acr := BitVec.ofNat 8 n.acr
    ifr := BitVec.ofNat 7 n.ifr, ier := BitVec.ofNat 7 n.ier
    t1Armed := n.t1Armed.getD true, t2Armed := n.t2Armed.getD true
    t1Hold := false, t2Hold := false, t1Reload := false }.writePcr (BitVec.ofNat 8 n.pcr)

/-- The video chip of a snapshot (rule R810 item 4): registers from the image, the row counters from the geometry. -/
def Snapshot.vic (k : MachineCfg) (n : Snapshot) (v : Vic) : Vic :=
  let v := { v with cr := Vector.ofFn (fun (r : Fin 16) => n.image.getD (0x9000 + r.val) 0) }
  let g := v.geometry k
  let hcount := n.hcount / 4 * 4
  let line := ((n.vcount : Int) - g.top).toNat
  let inRows := decide (g.top ≤ (n.vcount : Int)) && decide ((n.vcount : Int) < g.bottom)
  { v with
    hcount := hcount
    vcount := n.vcount
    cursor := n.vcount * k.variant.totalWidth + hcount
    depth := if inRows then line % g.h else 0
    rowBase :=
      if inRows then line / g.h * g.columns
      else if g.bottom ≤ (n.vcount : Int) then g.rows * g.columns
      else 0
    work := []
    shown := []
    frameComplete := false }

/-- Loads a snapshot into the machine reset left; a malformed one is rejected whole (rule R810). The chips' callbacks come
last and set the interrupt lines. -/
def loadSnapshot (n : Snapshot) (s : State) : State :=
  if n.wellFormed s.cfg then
    let s :=
      { s with
        mem := rawWriteBytes [] 0 n.image
        cpu := n.cpu s.cpu
        lines := { s.lines with nmiPending := false }
        vic := n.vic s.cfg s.vic }
    (s.updateVia .via1 (n.via1.load s.via1)).updateVia .via2 (n.via2.load s.via2)
  else s

/-! ### The boot order (rule R812) -/

/-- Constructs a machine: steps 1 to 6 of rule R812. A host's own `map` calls come after it (log entry 21). -/
def boot (k : MachineCfg) (roms : RomImages) (program : Option ProgramLoad) (snapshot : Option Snapshot) : State :=
  let p : MachineCfg × Memory :=
    match program with
    | some p => applyProgram k (romMemory k roms) p
    | none => (k, romMemory k roms)
  let s := resetWith p.1 p.2
  match snapshot with
  | some n => loadSnapshot n s
  | none => s

end Sys2Proof.Machine
end

