-- ==== Sys2Proof/Safety.lean ====
section
/-! DEFINITION. The terms the claims are stated in: the invariant of the machine, the registers a program sees, plain
memory, and the state a CPU cycle finds the machine in. -/

namespace Sys2Proof.Machine

open Sys2Proof

/-! ### What a program sees of the CPU -/

/-- The CPU without its latches and its place in a program: the registers and flags (rules R30 to R33), the interrupt
delay (rule R39) and the diagnostic count (rule R41). -/
structure Regs where
  a : Byte
  x : Byte
  y : Byte
  s : Byte
  pc : Addr
  n : Bool
  v : Bool
  d : Bool
  i : Bool
  z : Bool
  c : Bool
  irqDelay : Bool
  undocCount : Nat
deriving DecidableEq, Repr

def Cpu.regs (c : Cpu) : Regs :=
  { a := c.a, x := c.x, y := c.y, s := c.s, pc := c.pc, n := c.n, v := c.v, d := c.d, i := c.i, z := c.z, c := c.c,
    irqDelay := c.irqDelay, undocCount := c.undocCount }

/-- N and Z from a byte, as rule R12 says. -/
def Regs.setNZ (r : Regs) (v : Byte) : Regs := { r with n := decide (128 ≤ v.toNat), z := decide (v = 0) }

/-! ### The bus as a program sees it -/

/-- The handlers with no register behind them: a read has no side effect and no chip's cycle changes what it returns. -/
def Handler.plain : Handler → Bool
  | .ram _ | .rom _ | .colour _ | .unconnected => true
  | .vic _ | .via _ _ | .composite _ _ => false

/-- Whether an address has a plain handler. -/
def State.plainAt (s : State) (a : Addr) : Bool := (s.handler a).plain

/-- What a bus read of an address would return now. -/
def State.peek (s : State) (a : Addr) : Byte := (busRead a s).1

/-- The memory cell a store to an address reaches, if any: the cell of a RAM or colour RAM handler (rules R113, R117). -/
def State.storedCell (s : State) (a : Addr) : Option Addr :=
  match s.handler a with
  | .ram c | .colour c => some c
  | .rom _ | .vic _ | .via _ _ | .unconnected | .composite _ _ => none

/-! ### The tick around a CPU cycle -/

/-- The machine as the CPU's cycle of the next tick finds it (rule R80). -/
def beforeCpu (s : State) : State := vicCycle (drawInputs s)

/-- The machine after the timer chips' part of a tick (rule R80). -/
def afterCpu (s : State) : State := viaCycle .via2 (viaCycle .via1 s)

/-- A tick in which the CPU does nothing. -/
def idleTick (s : State) : State := afterCpu (beforeCpu s)

/-- `n` such ticks. -/
def idleTicks : Nat → State → State
  | 0, s => s
  | n + 1, s => idleTicks n (idleTick s)

/-! ### Where an instruction's operand is, and when -/

/-- The high byte of the base address of the modes that add an index to a 16-bit base (rule R174). -/
def baseHigh (peek : Addr → Byte) (pc : Addr) : MemMode → Byte
  | .izy => peek (zeroPage (peek pc + 1))
  | .zp | .zpx | .zpy | .abs | .absx | .absy | .izx => peek (pc + 1)

/-- The address of a mode's operand, the opcode standing at PC (rule R173). -/
def State.operandAddress (s : State) (m : MemMode) : Addr :=
  effectiveAddress s.peek (s.cpu.pc + 1) s.cpu.x s.cpu.y m

/-- The address before the carry reaches the high byte (rule R174). -/
def State.uncarriedAddress (s : State) (m : MemMode) : Addr :=
  mk16 (baseHigh s.peek (s.cpu.pc + 1) m) (loByte (s.operandAddress m))

/-- Whether the index addition crosses a page (rule R174). -/
def State.crosses (s : State) (m : MemMode) : Bool := m.carries && s.uncarriedAddress m != s.operandAddress m

/-- How many cycles a mode takes to form its address, without the carry cycle (rule R182). -/
def addressTicks : MemMode → Nat
  | .zp => 1
  | .zpx | .zpy | .abs | .absx | .absy => 2
  | .izx => 4
  | .izy => 3

/-- The addresses read on the way to the operand's address: the operand bytes, the un-indexed zero-page dummy, the
pointer (rule R182). -/
def State.addressReads (s : State) : MemMode → List Addr
  | .zp => [s.cpu.pc + 1]
  | .zpx | .zpy => [s.cpu.pc + 1, zeroPage (s.peek (s.cpu.pc + 1))]
  | .abs | .absx | .absy => [s.cpu.pc + 1, s.cpu.pc + 2]
  | .izx =>
    let p := s.peek (s.cpu.pc + 1)
    [s.cpu.pc + 1, zeroPage p, zeroPage (p + s.cpu.x), zeroPage (p + s.cpu.x + 1)]
  | .izy =>
    let p := s.peek (s.cpu.pc + 1)
    [s.cpu.pc + 1, zeroPage p, zeroPage (p + 1)]

/-- The opcode and the addresses read on the way to the operand are plain memory. The operand itself, and the dummy read
before it, may be anywhere. -/
def State.codePlain (s : State) (m : MemMode) : Bool := s.plainAt s.cpu.pc && (s.addressReads m).all s.plainAt

/-- The machine after the dummy read of the carry cycle (rules R182 to R184). -/
def State.afterCarry (s : State) (m : MemMode) : State :=
  afterCpu (busRead (s.uncarriedAddress m) (beforeCpu (idleTicks (1 + addressTicks m) s))).2

/-- The machine as the cycle that reads a read-class operand finds it (rule R182). -/
def State.atOperand (s : State) (m : MemMode) : State :=
  beforeCpu (if s.crosses m then s.afterCarry m else idleTicks (1 + addressTicks m) s)

/-- The machine as the first cycle at EA of the write and read-modify-write classes finds it (rules R183, R184). -/
def State.atStore (s : State) (m : MemMode) : State :=
  beforeCpu (if m.carries then s.afterCarry m else idleTicks (1 + addressTicks m) s)

/-- The read of a read-class operand: the byte, and the machine right after the bus access. -/
def State.operandRead (s : State) : ReadMode → Byte × State
  | .imm => (s.peek (s.cpu.pc + 1), beforeCpu (idleTick s))
  | .mem m => busRead (s.operandAddress m) (s.atOperand m)

/-- `codePlain` for a read mode. -/
def State.readPlain (s : State) : ReadMode → Bool
  | .imm => s.plainAt s.cpu.pc && s.plainAt (s.cpu.pc + 1)
  | .mem m => s.codePlain m

/-- The registers when the opcode and the operand bytes of an instruction have been read (rules R32, R431). -/
def State.fetched (s : State) (i : Instr) : Regs :=
  { s.cpu.regs with
    pc := s.cpu.pc + 1 + BitVec.ofNat 16 i.operandBytes
    undocCount := if runsAsNop s.cfg i then s.cpu.undocCount + 1 else s.cpu.undocCount }

/-- The end of an instruction's last tick: the bus access has left `s`, the semantic action `c`; the boundary decision
and the timer chips follow. -/
def finish (s : State) (c : Cpu) : State := afterCpu (endInstr { s with cpu := c })

/-- A tick whose CPU cycle writes a byte. -/
def writeTick (a : Addr) (v : Byte) (s : State) : State := afterCpu (busWrite a v (beforeCpu s))

/-- A tick whose CPU cycle reads a byte. -/
def readTick (a : Addr) (s : State) : State := afterCpu (busRead a (beforeCpu s)).2

/-- The machine as the last cycle of a read-modify-write instruction finds it: the operand read and written back in the
two ticks before (rule R184). -/
def State.atModified (s : State) (m : MemMode) : State :=
  let r := busRead (s.operandAddress m) (s.atStore m)
  beforeCpu (writeTick (s.operandAddress m) r.1 (afterCpu r.2))

/-- Ticks whose CPU cycles read the given addresses, in order. -/
def State.afterReads (s : State) (as : List Addr) : State := as.foldl (fun u a => readTick a u) s

/-- The read of `a` in the tick after those reads: the byte, and the machine right after the bus access. -/
def State.readAfter (s : State) (as : List Addr) (a : Addr) : Byte × State := busRead a (beforeCpu (s.afterReads as))

/-- The stack byte at `S + k` (rule R31). -/
def State.stackAt (s : State) (k : Byte) : Addr := mk16 0x01 (s.cpu.s + k)

/-! ### Completion: `exec` answers a next state, and what it is -/

/-- A read-class instruction answers a next state: its last cycle reads the operand and `effect` is what becomes of the
registers; nothing else but the chips' own cycles happens (rule R182). -/
def CompletesReading (i : Instr) (m : ReadMode) (effect : Byte → Regs → Regs) (s : State) : Prop :=
  ∃ c : Cpu, c.regs = effect (s.operandRead m).1 (s.fetched i) ∧ exec i s = .next (finish (s.operandRead m).2 c)

/-- A write-class instruction answers a next state: its last cycle writes `value` at `addr` (rule R183). -/
def CompletesStoring (i : Instr) (m : MemMode) (addr : Addr) (value : Byte) (effect : Regs → Regs) (s : State) : Prop :=
  ∃ c : Cpu, c.regs = effect (s.fetched i) ∧ exec i s = .next (finish (busWrite addr value (s.atStore m)) c)

/-- A read-modify-write instruction answers a next state: the operand `v` is read, written back, and `value v` written; the
registers become `effect v` (rule R184). -/
def CompletesModifying (i : Instr) (m : MemMode) (value : Byte → Byte) (effect : Byte → Regs → Regs) (s : State) : Prop :=
  ∃ c : Cpu, c.regs = effect (busRead (s.operandAddress m) (s.atStore m)).1 (s.fetched i) ∧
    exec i s = .next (finish
      (busWrite (s.operandAddress m) (value (busRead (s.operandAddress m) (s.atStore m)).1) (s.atModified m)) c)

/-- An implied or accumulator instruction answers a next state: a dummy read after the opcode, and `effect` (rule R185). -/
def CompletesImplied (i : Instr) (effect : Regs → Regs) (s : State) : Prop :=
  ∃ c : Cpu, c.regs = effect (s.fetched i) ∧ exec i s = .next (finish (s.readAfter [s.cpu.pc] (s.cpu.pc + 1)).2 c)

/-- A branch answers a next state: not taken, taken in its page with the interrupt delay set, or taken across pages
(rules R189, R390). -/
def CompletesBranching (i : Instr) (taken : Bool) (s : State) : Prop :=
  let pc := s.cpu.pc
  let target := pc + 2 + (s.readAfter [pc] (pc + 1)).1.signExtend 16
  if taken = false then
    ∃ c : Cpu, c.regs = s.fetched i ∧ exec i s = .next (finish (s.readAfter [pc] (pc + 1)).2 c)
  else if hiByte target = hiByte (pc + 2) then
    ∃ c : Cpu, c.regs = { s.fetched i with pc := target, irqDelay := true } ∧
      exec i s = .next (finish (s.readAfter [pc, pc + 1] (pc + 2)).2 c)
  else
    ∃ c : Cpu, c.regs = { s.fetched i with pc := target } ∧
      exec i s =
        .next (finish (s.readAfter [pc, pc + 1, pc + 2] (mk16 (hiByte (pc + 2)) (loByte target))).2 c)

/-! ### The access class of an instruction -/

/-- The mode of an instruction of the read class (rule R182, with the rules of spec files 40, 42 and 46). -/
def readModeOf : Instr → Option ReadMode
  | .lda m | .adc m | .sbc m | .and m | .ora m | .eor m | .cmp m => some (readModeOfAlu m)
  | .ldx m => some (readModeOfLdx m)
  | .ldy m => some (readModeOfLdy m)
  | .cpx m | .cpy m => some (readModeOfCpx m)
  | .bit m => some (.mem (memModeOfBit m))
  | .lax m => some (.mem (memModeOfLax m))
  | .las => some (.mem .absy)
  | .anc _ | .alr | .arr | .sbx | .usbc | .ane | .lxa => some .imm
  | .nopUndoc m _ => readModeOfNop m
  | _ => none

/-- The mode of an instruction of the write class (rule R183, with the rules of spec files 40 and 46). -/
def writeModeOf : Instr → Option MemMode
  | .sta m => some (memModeOfStore m)
  | .stx m => some (memModeOfStx m)
  | .sty m => some (memModeOfSty m)
  | .sax m => some (memModeOfSax m)
  | .sha m => some (memModeOfSha m)
  | .shx | .tas => some .absy
  | .shy => some .absx
  | _ => none

/-- The mode of an instruction of the read-modify-write class in memory (rule R184, with the rules of spec files 42, 43 and
46). -/
def modifyModeOf : Instr → Option MemMode
  | .inc m | .dec m => some (memModeOfInc m)
  | .asl m | .lsr m | .rol m | .ror m => memModeOfShift m
  | .slo m | .rla m | .sre m | .rra m | .dcp m | .isc m => some (memModeOfStore m)
  | _ => none

/-- Whether a branch is taken: the condition of its rule (rules R391 to R398). None for another instruction. -/
def branchCondition (c : Cpu) : Instr → Option Bool
  | .bpl => some (!c.n)
  | .bmi => some c.n
  | .bvc => some (!c.v)
  | .bvs => some c.v
  | .bcc => some (!c.c)
  | .bcs => some c.c
  | .bne => some (!c.z)
  | .beq => some c.z
  | _ => none

/-- How many cycles an instruction outside those classes takes: the implied and accumulator forms two, the stack, jump and
return instructions as their own cycle tables say (rules R184 to R188). -/
def fixedTicks : Instr → Option Nat
  | .pha | .php | .jmp .abs => some 3
  | .pla | .plp => some 4
  | .jmp .ind => some 5
  | .jsr | .rts | .rti => some 6
  | .brk => some 7
  | .tax | .tay | .txa | .tya | .tsx | .txs | .inx | .iny | .dex | .dey => some 2
  | .clc | .sec | .cli | .sei | .cld | .sed | .clv | .nop | .jam _ | .nopUndoc .imp _ => some 2
  | .asl .acc | .lsr .acc | .rol .acc | .ror .acc => some 2
  | _ => none

/-! ### What the rules list -/

/-- The instructions that write A: rule R30, and the rules of spec file 46 for the undocumented ones. -/
def writesA : Instr → Bool
  | .lda _ | .pla | .txa | .tya | .adc _ | .sbc _ | .and _ | .ora _ | .eor _ => true
  | .asl .acc | .lsr .acc | .rol .acc | .ror .acc => true
  | .slo _ | .rla _ | .sre _ | .rra _ | .isc _ | .lax _ | .anc _ | .alr | .arr | .usbc | .las | .ane | .lxa => true
  | _ => false

/-- The instructions that write X (rule R30, spec file 46). -/
def writesX : Instr → Bool
  | .ldx _ | .tax | .tsx | .inx | .dex => true
  | .lax _ | .sbx | .las | .lxa => true
  | _ => false

/-- The instructions that write Y (rule R30). -/
def writesY : Instr → Bool
  | .ldy _ | .tay | .iny | .dey => true
  | _ => false

/-- The instructions that write S (rule R31). -/
def writesS : Instr → Bool
  | .txs | .pha | .php | .pla | .plp | .jsr | .rts | .brk | .rti | .tas | .las => true
  | _ => false

/-- The instructions that write N, and but for BIT's own rule Z (rule R35, spec file 46). -/
def writesNZ : Instr → Bool
  | .lda _ | .ldx _ | .ldy _ | .tax | .tay | .txa | .tya | .tsx | .pla | .adc _ | .sbc _ | .and _ | .ora _ | .eor _ => true
  | .cmp _ | .cpx _ | .cpy _ | .bit _ | .inc _ | .dec _ | .inx | .iny | .dex | .dey => true
  | .asl _ | .lsr _ | .rol _ | .ror _ | .plp | .rti => true
  | .slo _ | .rla _ | .sre _ | .rra _ | .isc _ | .dcp _ | .lax _ | .anc _ | .alr | .arr | .sbx | .usbc => true
  | .las | .ane | .lxa => true
  | _ => false

/-- The instructions that write V (rule R35, spec file 46). -/
def writesV : Instr → Bool
  | .adc _ | .sbc _ | .bit _ | .clv | .plp | .rti => true
  | .rra _ | .isc _ | .arr | .usbc => true
  | _ => false

/-- The instructions that write D (rule R35). -/
def writesD : Instr → Bool
  | .cld | .sed | .plp | .rti => true
  | _ => false

/-- The instructions that write I (rule R35). -/
def writesI : Instr → Bool
  | .cli | .sei | .plp | .rti | .brk => true
  | _ => false

/-- The instructions that write C (rule R35, spec file 46). -/
def writesC : Instr → Bool
  | .adc _ | .sbc _ | .cmp _ | .cpx _ | .cpy _ | .asl _ | .lsr _ | .rol _ | .ror _ | .clc | .sec | .plp | .rti => true
  | .slo _ | .rla _ | .sre _ | .rra _ | .isc _ | .dcp _ | .anc _ | .alr | .arr | .sbx | .usbc => true
  | _ => false

/-- The mode of an instruction that stores at the address of its mode: the stores and the read-modify-write instructions.
None for a form that stores nothing, and for those whose address is another (the stack, the unstable stores, TRAP). -/
def storeMode : Instr → Option MemMode
  | .sta m | .slo m | .rla m | .sre m | .rra m | .dcp m | .isc m => some (memModeOfStore m)
  | .stx m => some (memModeOfStx m)
  | .sty m => some (memModeOfSty m)
  | .sax m => some (memModeOfSax m)
  | .inc m | .dec m => some (memModeOfInc m)
  | .asl m | .lsr m | .rol m | .ror m => memModeOfShift m
  | _ => none

/-- Whether an instruction stores to memory in some form: those of `storeMode`, the stack pushes, the unstable stores and
TRAP, whose callback may write. -/
def mayStore : Instr → Bool
  | .pha | .php | .jsr | .brk | .sha _ | .shx | .shy | .tas | .trap => true
  | i => (storeMode i).isSome

/-- Where the unstable stores write the value v (rule R451). -/
def State.unstableAddress (s : State) (m : MemMode) (v : Byte) : Addr :=
  if s.crosses m then mk16 v (loByte (s.operandAddress m)) else s.operandAddress m

/-! ### Whole runs -/

/-- The ticks from `s` to `t`, which is the first program boundary after `s` (rules R36, R191). -/
def ReachesBoundary (s t : State) : Prop :=
  ∃ n : Nat, 1 ≤ n ∧ t = ticks n s ∧ t.cpu.prog = .none ∧ ∀ m : Nat, 1 ≤ m → m < n → (ticks m s).cpu.prog ≠ .none

/-- `n` ticks with a frame-complete query after each (rule R82). -/
def queriedTicks : Nat → State → State
  | 0, s => s
  | n + 1, s => (frameCompleteQuery (tick (queriedTicks n s))).2

/-- Fields of a timer chip that only a register write changes. -/
structure ViaSettings where
  ora : Byte
  orb : Byte
  ddra : Byte
  ddrb : Byte
  t1l : BitVec 16
  t2ll : Byte
  sr : Byte
  acr : Byte
  pcr : Byte
  ier : BitVec 7
  ca2Out : Bool
  cb2Out : Bool
deriving DecidableEq, Repr

def Via.settings (v : Via) : ViaSettings :=
  { ora := v.ora, orb := v.orb, ddra := v.ddra, ddrb := v.ddrb, t1l := v.t1l, t2ll := v.t2ll, sr := v.sr, acr := v.acr,
    pcr := v.pcr, ier := v.ier, ca2Out := v.ca2Out, cb2Out := v.cb2Out }

/-- Every register of the three chips but the flags, counters and latches their own cycles change is as before, and the
host was called nothing. -/
def ChipsKept (s t : State) : Prop :=
  t.vic.cr = s.vic.cr ∧ t.via1.settings = s.via1.settings ∧ t.via2.settings = s.via2.settings ∧
    t.hostCalls = s.hostCalls

/-! ### Timer/IO chips -/

/-- The flags an access to register r clears, but for a write of IFR itself (rule R607): the table, row by row. -/
def flagsCleared (v : Via) (isWrite : Bool) (r : BitVec 4) : List Nat :=
  let independent : BitVec 3 → Bool := fun ctl => ctl == 1 || ctl == 3
  match r.toNat with
  | 0 => if independent (v.pcr.extractLsb' 5 3) then [4] else [4, 3]
  | 1 => if independent (v.pcr.extractLsb' 1 3) then [1] else [1, 0]
  | 4 => if isWrite then [] else [6]
  | 5 | 7 => if isWrite then [6] else []
  | 8 => if isWrite then [] else [5]
  | 9 => if isWrite then [5] else []
  | 10 => [2]
  | _ => []

/-- A timer/IO chip holds what a snapshot's register set says (rule R810 item 3). -/
def ViaSnapshot.LoadedIn (n : ViaSnapshot) (v : Via) : Prop :=
  v.ora.toNat = n.ora ∧ v.orb.toNat = n.orb ∧ v.ddra.toNat = n.ddra ∧ v.ddrb.toNat = n.ddrb ∧
    v.t1c.toNat = n.t1c ∧ v.t1l.toNat = n.t1l ∧ v.t2c.toNat = n.t2c ∧ v.t2ll.toNat = n.t2ll ∧
    v.sr.toNat = n.sr ∧ v.acr.toNat = n.acr ∧ v.pcr.toNat = n.pcr ∧
    v.ifr.toNat = n.ifr % 128 ∧ v.ier.toNat = n.ier % 128 ∧
    v.t1Armed = n.t1Armed.getD true ∧ v.t2Armed = n.t2Armed.getD true ∧
    v.t1Hold = false ∧ v.t2Hold = false ∧ v.t1Reload = false ∧
    (v.ca2Out = false ↔ n.pcr / 2 % 8 = 6) ∧ (v.cb2Out = false ↔ n.pcr / 32 = 6)

/-! ### The invariant -/

/-- A timer chip's fields agree: no flag of the shift register (rule R640), CA2 and CB2 as PCR says (rule R652). -/
def Via.Inv (v : Via) : Prop :=
  v.ifr.getLsbD ifrSR = false ∧ v.ca2Out = controlOut v.ca2Control ∧ v.cb2Out = controlOut v.cb2Control

/-- The counters of the video chip stay inside the frame and agree with the cursor (rule R705), and both framebuffers keep
their form and their size. -/
def Vic.Inv (k : MachineCfg) (v : Vic) : Prop :=
  v.hcount % 4 = 0 ∧ v.hcount < k.variant.totalWidth ∧ v.vcount < k.variant.totalHeight ∧
    v.cursor = v.vcount * k.variant.totalWidth + v.hcount ∧
    Sparse.wf (k.variant.totalWidth * k.variant.totalHeight) v.work = true ∧
    Sparse.wf (k.variant.totalWidth * k.variant.totalHeight) v.shown = true

/-- The step index lies in the program in progress (rule R36). -/
def State.InProgram (s : State) : Prop :=
  s.cpu.prog = .none ∨ (1 ≤ s.cpu.t ∧ s.cpu.t ≤ (progCycles s.cfg s.cpu.prog).length)

/-- The invariant of the machine: memory in its canonical form, the step index in bounds (rule R36), the CPU's line bits
equal to the chips' pins (rule R605), and the chips' own invariants. -/
structure State.Inv (s : State) : Prop where
  mem : s.mem.wf = true
  inProgram : s.InProgram
  nmi : s.lines.nmiLevel = s.via1.pinLevel
  irq : s.lines.irqLevel = s.via2.pinLevel
  via1 : s.via1.Inv
  via2 : s.via2.Inv
  vic : s.vic.Inv s.cfg

end Sys2Proof.Machine
end

