-- ==== Sys2Proof/Certificates/Slice0/Obligations.lean ====
section
/-! DEFINITION. The statements about the machine, each a `Prop` for the provers. The terms they use (`CompletesReading`,
`finish`, `operandRead`, …) are those of Sys2Proof/Safety.lean. -/

open Sys2Proof Sys2Proof.Machine

/-! ### Encoding -/

/-- Rules R170, R171, R200: every well-formed instruction but TRAP, with any operand bytes, encoded and followed by any
bytes, decodes to itself and leaves those bytes. -/
def Obligations.DecodeOfEncode : Prop :=
  ∀ (trapByte : Byte) (c : Code) (rest : List Byte), c.wellFormed = true → c.instr ≠ .trap →
    decode (encode trapByte c ++ rest) = .ok (c, rest)

/-- Rule R201: decoding is total and one-to-one: every byte decodes to a well-formed instruction whose own opcode is that
byte, and that instruction answers a next state in every state: none traps, halts or is reserved. -/
def Obligations.EveryOpcodeDecodes : Prop :=
  ∀ b : Byte, (decodeOpcode b).wellFormed = true ∧ (decodeOpcode b).opcode = b ∧ decodeOpcode b ≠ .trap ∧
    ∀ s : State, ∃ t : State, exec (decodeOpcode b) s = .next t

/-- Words written out from the Encoding lines of rules R300, R303, R328, R340, R383, R397, R399, R400, R424, R440: what
they decode to. -/
def Obligations.WordsDecode : Prop :=
  decodeTableWord 16 0x80A9 = some (.lda .imm) ∧ decodeTableWord 24 0x12349D = some (.sta .absx) ∧
    decodeTableWord 8 0x68 = some .pla ∧ decodeTableWord 16 0x8071 = some (.adc .izy) ∧
    decodeTableWord 16 0x1066 = some (.ror .zp) ∧ decodeTableWord 16 0xFBD0 = some .bne ∧
    decodeTableWord 24 0x10FF6C = some (.jmp .ind) ∧ decodeTableWord 24 0x110020 = some .jsr ∧
    decodeTableWord 8 0xD8 = some .cld ∧ decodeTableWord 16 0x80B3 = some (.lax .izy)

/-! ### The step -/

/-- Rules R191, R203: at a program boundary that fetches, the step is `exec` of the instruction that the bytes at PC decode
to; the byte TRAP_OPCODE at an address with a registered trap is TRAP, and any other byte, and that byte at any other
address, decodes by its own row. That one step is one whole program is the model's choice (log entry 3). -/
def Obligations.StepRunsTheDecodedInstruction : Prop :=
  ∀ s : State, s.cpu.prog = .none → s.cpu.next = .fetch → s.plainAt s.cpu.pc = true →
    (∀ (c : Code) (operands rest : List Byte),
      s.trapAt s.cpu.pc = none ∨ s.peek s.cpu.pc ≠ s.cfg.trapOpcode →
      decode (s.peek s.cpu.pc :: operands) = .ok (c, rest) → step s = exec c.instr s) ∧
    ((s.trapAt s.cpu.pc).isSome = true → s.peek s.cpu.pc = s.cfg.trapOpcode → step s = exec .trap s)

/-- Rules R36, R80, R191: from any state of the invariant that has just begun or is inside a program, the step is the tick
of the machine iterated to the next program boundary and no further. The step's size is the model's choice (log entry 3). -/
def Obligations.StepIsTicksToTheBoundary : Prop :=
  ∀ s : State, s.Inv → ∃ t : State, step s = .next t ∧ ReachesBoundary s t

/-- Rules R182 to R189, R193: how many ticks each instruction takes, by its access class, in states whose opcode, operand and
pointer bytes are plain memory. That an undocumented opcode whose policy is NOP keeps the length of its own class is the
model's choice outside the default table (log entry 7). -/
def Obligations.CycleCounts : Prop :=
  ∀ s : State, s.cpu.prog = .none → s.cpu.next = .fetch → s.plainAt s.cpu.pc = true →
    (∀ r : TrapRecord, s.trapAt s.cpu.pc = some r → s.peek s.cpu.pc = s.cfg.trapOpcode → step s = .next (ticks 2 s)) ∧
    (s.trapAt s.cpu.pc = none → ∀ i : Instr, i.wellFormed = true → i ≠ .trap → s.peek s.cpu.pc = i.opcode →
      (readModeOf i = some .imm → step s = .next (ticks 2 s)) ∧
      (∀ m : MemMode, readModeOf i = some (.mem m) → s.codePlain m = true →
        step s = .next (ticks (2 + addressTicks m + if s.crosses m then 1 else 0) s)) ∧
      (∀ m : MemMode, writeModeOf i = some m → s.codePlain m = true →
        step s = .next (ticks (2 + addressTicks m + if m.carries then 1 else 0) s)) ∧
      (∀ m : MemMode, modifyModeOf i = some m → s.codePlain m = true →
        step s = .next (ticks (4 + addressTicks m + if m.carries then 1 else 0) s)) ∧
      (∀ n : Nat, fixedTicks i = some n → step s = .next (ticks n s)) ∧
      (∀ b : Bool, branchCondition s.cpu i = some b → s.plainAt (s.cpu.pc + 1) = true →
        let target := s.cpu.pc + 2 + (s.peek (s.cpu.pc + 1)).signExtend 16
        step s =
          .next (ticks (if b = false then 2 else if hiByte target = hiByte (s.cpu.pc + 2) then 3 else 4) s)))

/-! ### The invariant -/

/-- Rules R36, R605, R640, R652, R705, and the canonical form of memory: a step keeps the invariant, from every state that
has it. -/
def Obligations.StepKeepsInvariant : Prop := ∀ s t : State, s.Inv → step s = .next t → t.Inv

/-- The reset machine has the invariant. -/
def Obligations.ResetHasInvariant : Prop := State.reset.Inv

/-! ### Reset -/

/-- Rules R132, R801, R802: after boot with no snapshot A, X and Y are 0, S is 0xFF, I is 1 and the other flags 0, no program
is in progress, PC is the little-endian word at 0xFFFC; with no program load either each ROM range holds its image, the
cartridge range too where MEM_CONFIG makes it ROM, padded with 0x00, and every other byte is 0x00; for every variant, memory
configuration and set of ROM images. The values of A, X, Y and the flags are the spec's decision D13, the padding and the
zeros its decision D14; that images longer than rule R132's are cut at the end of their range is the model's choice (log entry
20). -/
def Obligations.BootRegistersAndRom : Prop :=
  ∀ (k : MachineCfg) (roms : RomImages),
    (∀ p : Option ProgramLoad,
      let s := boot k roms p none
      s.cpu.a = 0 ∧ s.cpu.x = 0 ∧ s.cpu.y = 0 ∧ s.cpu.s = 0xFF ∧
        s.cpu.n = false ∧ s.cpu.v = false ∧ s.cpu.d = false ∧ s.cpu.z = false ∧ s.cpu.c = false ∧ s.cpu.i = true ∧
        s.cpu.prog = .none ∧ s.cpu.next = .fetch ∧
        s.cpu.pc = mk16 (rawRead s.mem 0xFFFD) (rawRead s.mem 0xFFFC)) ∧
    (∀ n : Nat,
      roms.char.length = 4096 → roms.basic.length = 8192 → roms.kernal.length = 8192 →
      (n < 4096 → (boot k roms none none).peek (BitVec.ofNat 16 (0x8000 + n)) = roms.char.getD n 0) ∧
      (n < 8192 → (boot k roms none none).peek (BitVec.ofNat 16 (0xC000 + n)) = roms.basic.getD n 0) ∧
      (n < 8192 → (boot k roms none none).peek (BitVec.ofNat 16 (0xE000 + n)) = roms.kernal.getD n 0)) ∧
    (∀ n : Nat, k.mem.cart = .rom → n < 8192 →
      (boot k roms none none).peek (BitVec.ofNat 16 (0xA000 + n)) = roms.cart.getD n 0) ∧
    (∀ a : Addr, a.toNat < 0x8000 ∨ (0x9000 ≤ a.toNat ∧ a.toNat < 0xA000) ∨
        (0xA000 ≤ a.toNat ∧ a.toNat < 0xC000 ∧ k.mem.cart ≠ .rom) →
      rawRead (boot k roms none none).mem a = 0)

/-- Rule R811: what a program load leaves in memory and in the handler array, beside a boot without it. A cartridge of 1 to
8192 bytes makes 0xA000 to 0xBFFF ROM that reads its bytes and then 0x00; a BASIC program that ends within memory puts the
bytes after its load address there; a raw image of up to 65536 bytes fills the addresses whose handler is RAM; every other
byte and handler is as without the load; and a malformed load changes nothing. These are the spec's decisions D14 and D40. -/
def Obligations.ProgramLoadMemory : Prop :=
  ∀ (k : MachineCfg) (roms : RomImages) (bs : List Byte),
    let plain := boot k roms none none
    let cartridge := boot k roms (some (.cartridge bs)) none
    let basic := boot k roms (some (.basic bs)) none
    let raw := boot k roms (some (.rawRam bs)) none
    (1 ≤ bs.length ∧ bs.length ≤ 8192 → ∀ a : Addr,
      (0xA000 ≤ a.toNat ∧ a.toNat < 0xC000 →
        cartridge.handler a = .rom a ∧ cartridge.peek a = bs.getD (a.toNat - 0xA000) 0) ∧
      (¬(0xA000 ≤ a.toNat ∧ a.toNat < 0xC000) →
        cartridge.handler a = plain.handler a ∧ rawRead cartridge.mem a = rawRead plain.mem a)) ∧
    (¬(1 ≤ bs.length ∧ bs.length ≤ 8192) → cartridge = plain) ∧
    (∀ (lo hi : Byte) (rest : List Byte), bs = lo :: hi :: rest →
      let start := 256 * hi.toNat + lo.toNat
      (start + rest.length ≤ 65536 → ∀ a : Addr,
        basic.handler a = plain.handler a ∧
          rawRead basic.mem a =
            (if start ≤ a.toNat ∧ a.toNat < start + rest.length then rest.getD (a.toNat - start) 0
             else rawRead plain.mem a)) ∧
      (65536 < start + rest.length → basic = plain)) ∧
    (bs.length < 2 → basic = plain) ∧
    (bs.length ≤ 65536 → ∀ a : Addr,
      raw.handler a = plain.handler a ∧
        rawRead raw.mem a =
          (if a.toNat < bs.length ∧ plain.handler a = .ram a then bs.getD a.toNat 0 else rawRead plain.mem a)) ∧
    (65536 < bs.length → raw = plain)

/-- Rules R801, R606, R720: the reset machine: every byte of memory 0, the timer chips and the video chip as their rules
say. That State.reset has the source's zero-filled image is the model's choice (log entry 6). -/
def Obligations.ResetMachine : Prop :=
  (∀ a : Addr, rawRead State.reset.mem a = 0) ∧ State.reset.cpu.pc = 0x0000 ∧ State.reset.cpu.s = 0xFF ∧
    State.reset = boot MachineCfg.default RomImages.empty none none ∧
    State.reset.via1.pinLevel = false ∧ State.reset.via2.pinLevel = false ∧
    (∀ r : BitVec 4, State.reset.vic.reg r = 0)

/-- Rule R810: a malformed snapshot is rejected whole; a well-formed one leaves the CPU at an instruction boundary with its
registers, flags and cleared latches, the memory image in place under the handler array as it was, the timer chips with their
register sets and their pins on the lines, and the video chip with the image's registers and the raster position, its row
counters those of that line. How a snapshot is applied is the spec's decision D40; that its register values are numbers, and
IFR's and IER's of eight bits, is the model's choice (log entry 13). -/
def Obligations.SnapshotLoad : Prop :=
  ∀ (n : Snapshot) (s : State),
    (n.wellFormed s.cfg = false → loadSnapshot n s = s) ∧
    (n.wellFormed s.cfg = true →
      let t := loadSnapshot n s
      let g := t.vic.geometry s.cfg
      let y : Int := n.vcount
      (t.cpu.a.toNat = n.a ∧ t.cpu.x.toNat = n.x ∧ t.cpu.y.toNat = n.y ∧ t.cpu.s.toNat = n.s ∧ t.cpu.pc.toNat = n.pc ∧
        t.cpu.n = n.n ∧ t.cpu.v = n.v ∧ t.cpu.d = n.d ∧ t.cpu.i = n.i ∧ t.cpu.z = n.z ∧ t.cpu.c = n.c ∧
        t.cpu.prog = .none ∧ t.cpu.next = .fetch ∧ t.cpu.irqDelay = false ∧
        t.cpu.adl = 0 ∧ t.cpu.adh = 0 ∧ t.cpu.ptr = 0 ∧ t.cpu.data = 0 ∧ t.cpu.ea = 0 ∧ t.cpu.cross = false ∧
        t.cpu.off = 0) ∧
      (t.cfg = s.cfg ∧ t.maps = s.maps ∧ ∀ a : Addr, rawRead t.mem a = n.image.getD a.toNat 0) ∧
      (n.via1.LoadedIn t.via1 ∧ n.via2.LoadedIn t.via2) ∧
      (t.lines.irqLevel = t.via2.pinLevel ∧ t.lines.nmiLevel = t.via1.pinLevel ∧
        t.lines.nmiPending = (t.via1.pinLevel && !s.lines.nmiLevel)) ∧
      ((∀ r : BitVec 4, t.vic.reg r = n.image.getD (0x9000 + r.toNat) 0) ∧
        t.vic.vcount = n.vcount ∧ t.vic.hcount = n.hcount / 4 * 4 ∧
        t.vic.cursor = n.vcount * s.cfg.variant.totalWidth + n.hcount / 4 * 4 ∧
        (g.top ≤ y ∧ y < g.bottom →
          (t.vic.depth : Int) = (y - g.top) % g.h ∧ (t.vic.rowBase : Int) = (y - g.top) / g.h * g.columns) ∧
        (y < g.top → t.vic.depth = 0 ∧ t.vic.rowBase = 0) ∧
        (g.bottom ≤ y → t.vic.depth = 0 ∧ t.vic.rowBase = g.rows * g.columns) ∧
        (∀ i : Nat, Sparse.read t.vic.work i = 0 ∧ Sparse.read t.vic.shown i = 0) ∧ t.vic.frameComplete = false) ∧
      t.vic.Inv s.cfg)

/-! ### The bus -/

/-- Rule R113: a RAM handler: a read returns the cell's byte and changes nothing, a write sets that cell and changes
nothing else, and every address of the same cell then reads the byte written. -/
def Obligations.RamCells : Prop :=
  ∀ (s : State) (a b c : Addr) (x : Byte), s.mem.wf = true → s.handler a = .ram c →
    busRead a s = (rawRead s.mem c, s) ∧ busWrite a x s = { s with mem := (busWrite a x s).mem } ∧
    rawRead (busWrite a x s).mem c = x ∧ (∀ d : Addr, d ≠ c → rawRead (busWrite a x s).mem d = rawRead s.mem d) ∧
    (s.handler b = .ram c → (busWrite a x s).peek b = x)

/-- The other handlers, as rules R114 to R117 and decisions D16 to D19 settle them: ROM and unconnected addresses ignore
writes, an unconnected address reads FLOAT, colour RAM keeps the low four bits and floats the upper four, and a composite
address, of any chips, reads the OR of their values with every selected chip's side effects and writes every selected chip,
in the order video chip, VIA1, VIA2. -/
def Obligations.HandlerAccesses : Prop :=
  ∀ (s : State) (a b c : Addr) (r : BitVec 4) (x : Byte) (chips : ChipSet), s.mem.wf = true →
    (s.handler a = .rom c → busWrite a x s = s ∧ busRead a s = (rawRead s.mem c, s)) ∧
    (s.handler a = .unconnected → busWrite a x s = s ∧ busRead a s = (s.cfg.float, s)) ∧
    (s.handler a = .colour c → s.handler b = .colour c →
      (busWrite a x s).peek b = (x &&& 0x0F) ||| (s.cfg.float &&& 0xF0) ∧
        ∀ d : Addr, d ≠ c → rawRead (busWrite a x s).mem d = rawRead s.mem d) ∧
    (s.handler a = .composite chips r →
      (let value : Byte :=
          (if chips.vic then s.vic.read s.inputs r else 0) |||
            (if chips.via1 then s.via1.readValue s.inputs.via1 r else 0) |||
            (if chips.via2 then s.via2.readValue s.inputs.via2 r else 0)
        let u := if chips.via1 then (viaRead .via1 r s).2 else s
        busRead a s = (value, if chips.via2 then (viaRead .via2 r u).2 else u)) ∧
        (let u := if chips.vic then { s with vic := s.vic.write r x } else s
          let w := if chips.via1 then viaWrite .via1 r x u else u
          busWrite a x s = if chips.via2 then viaWrite .via2 r x w else w) ∧
        (busWrite a x s).vic = (if chips.vic then s.vic.write r x else s.vic) ∧
        (busWrite a x s).via1 = (if chips.via1 then s.via1.write r x else s.via1) ∧
        (busWrite a x s).via2 = (if chips.via2 then s.via2.write r x else s.via2) ∧
        (busWrite a x s).mem = s.mem)

/-- Rules R130, R134: the unexpanded machine's address map, every range of it at every address. An address of the alias ranges
is unconnected, or the register `a & 0x0F` of the one chip IO_DECODE selects there, or the composite of the several chips it
selects at that register (decision D19); IO_DECODE is a list whose first entry for an address counts, and an address it does
not list selects no chip, which is the model's choice (log entry 14). -/
def Obligations.UnexpandedMap : Prop :=
  ∀ (k : MachineCfg) (a : Addr), k.mem = MemConfig.unexpanded →
    (a.toNat < 0x0400 ∨ (0x1000 ≤ a.toNat ∧ a.toNat < 0x2000) → baseHandler k a = .ram a) ∧
    ((0x0400 ≤ a.toNat ∧ a.toNat < 0x1000) ∨ (0x2000 ≤ a.toNat ∧ a.toNat < 0x8000) ∨
      (0x9800 ≤ a.toNat ∧ a.toNat < 0xC000) → baseHandler k a = .unconnected) ∧
    ((0x8000 ≤ a.toNat ∧ a.toNat < 0x9000) ∨ 0xC000 ≤ a.toNat → baseHandler k a = .rom a) ∧
    (0x9000 ≤ a.toNat ∧ a.toNat < 0x9010 → baseHandler k a = .vic (a.extractLsb' 0 4)) ∧
    (0x9110 ≤ a.toNat ∧ a.toNat < 0x9120 → baseHandler k a = .via .via1 (a.extractLsb' 0 4)) ∧
    (0x9120 ≤ a.toNat ∧ a.toNat < 0x9130 → baseHandler k a = .via .via2 (a.extractLsb' 0 4)) ∧
    (0x9400 ≤ a.toNat ∧ a.toNat < 0x9800 → baseHandler k a = .colour a) ∧
    ((0x9010 ≤ a.toNat ∧ a.toNat < 0x9110) ∨ (0x9130 ≤ a.toNat ∧ a.toNat < 0x9400) →
      (∀ (before after : List (Nat × ChipSet)) (chips : ChipSet),
        k.ioDecode = before ++ (a.toNat, chips) :: after → (∀ e ∈ before, e.1 ≠ a.toNat) →
        let r : BitVec 4 := BitVec.ofNat 4 (a.toNat % 16)
        let selected := [chips.vic, chips.via1, chips.via2].count true
        (selected = 0 → baseHandler k a = .unconnected) ∧
        (selected = 1 →
          (chips.vic = true → baseHandler k a = .vic r) ∧ (chips.via1 = true → baseHandler k a = .via .via1 r) ∧
            (chips.via2 = true → baseHandler k a = .via .via2 r)) ∧
        (2 ≤ selected → baseHandler k a = .composite chips r)) ∧
      ((∀ e ∈ k.ioDecode, e.1 ≠ a.toNat) → baseHandler k a = .unconnected))

/-- Rule R118, decision D20: `map` of any chip with a mirror mask: the mirror by m of an address of the range, where no mirror
by a greater value covers it, gets that address's own cell or register; every address no mirror covers keeps its handler; and
initial data of the range's length stands in the range's cells, with every other byte as before. That a device's register is
counted from the start of the range is rule R118 against R135, the model's choice (log entry 18). -/
def Obligations.MapMirrors : Prop :=
  ∀ (s : State) (e : MapEntry) (data : List Byte),
    let t := mapChip e data s
    let covers : Addr → Addr → Prop := fun m b => m &&& ~~~e.mirrorMask = 0 ∧ e.start ≤ b - m ∧ b - m ≤ e.stop
    (∀ a m : Addr, covers m (a + m) → (∀ m' : Addr, covers m' (a + m) → m' ≤ m) →
      let r : BitVec 4 := BitVec.ofNat 4 ((a.toNat - e.start.toNat) % 16)
      t.handler (a + m) =
        (match e.chip with
          | .ram => .ram a
          | .rom => .rom a
          | .colour => .colour a
          | .vic => .vic r
          | .via id => .via id r
          | .unconnected => .unconnected)) ∧
    (∀ b : Addr, (∀ m : Addr, ¬covers m b) → t.handler b = s.handler b) ∧
    (data = [] → t.mem = s.mem) ∧
    (s.mem.wf = true → e.start.toNat + data.length = e.stop.toNat + 1 → ∀ b : Addr,
      rawRead t.mem b =
        (if e.start ≤ b ∧ b ≤ e.stop then data.getD (b.toNat - e.start.toNat) 0 else rawRead s.mem b))

/-- Rules R119, R455, as decision D12 settles them: while a trap is registered the byte is TRAP_OPCODE whatever handler the
address has; registering again replaces the callback and keeps the first saved byte; and removing the trap restores memory,
the trap table and the whole machine. -/
def Obligations.TrapRegistration : Prop :=
  ∀ (s : State) (a : Addr) (cb cb' : Nat), s.mem.wf = true → s.trapAt a = none →
    rawRead (registerTrap a cb s).mem a = s.cfg.trapOpcode ∧
      (registerTrap a cb s).trapAt a = some { saved := rawRead s.mem a, callback := cb } ∧
      (registerTrap a cb' (registerTrap a cb s)).trapAt a = some { saved := rawRead s.mem a, callback := cb' } ∧
      (∀ b : Addr, b ≠ a → (registerTrap a cb s).trapAt b = s.trapAt b ∧
        rawRead (registerTrap a cb s).mem b = rawRead s.mem b) ∧
      (removeTrap a (registerTrap a cb' (registerTrap a cb s))).mem = s.mem ∧
      (removeTrap a (registerTrap a cb' (registerTrap a cb s))).traps = s.traps ∧
      removeTrap a (registerTrap a cb' (registerTrap a cb s)) = s

/-! ### Operands -/

/-- Plain memory (rules R104, R113, R116, R117) reads, in any tick after any reads, as it does now; so a read-class or
read-modify-write operand in plain memory is the byte there now, at the address rule R173 gives. -/
def Obligations.PlainMemoryReadsAreStable : Prop :=
  ∀ s : State,
    (∀ (as : List Addr) (a : Addr), s.plainAt a = true → (s.readAfter as a).1 = s.peek a) ∧
    (∀ m : MemMode, s.plainAt (s.operandAddress m) = true →
      (s.operandRead (.mem m)).1 = s.peek (s.operandAddress m) ∧
        (busRead (s.operandAddress m) (s.atStore m)).1 = s.peek (s.operandAddress m))

/-- What `finish` leaves: the registers and flags of the CPU it is given, the interrupt delay cleared, no program in
progress, the boundary decision's choice, the memory as the last bus access left it (rules R191, R510, R512). -/
def Obligations.FinishLeaves : Prop :=
  ∀ (u : State) (c : Cpu),
    (finish u c).cpu.regs = { c.regs with irqDelay := false } ∧ (finish u c).cpu.prog = .none ∧
      (finish u c).cpu.next =
        (if c.irqDelay then .fetch
         else if u.lines.nmiPending then .int .nmi
         else if u.lines.irqLevel && !c.i then .int .irq
         else .fetch) ∧
      (finish u c).mem = u.mem ∧ (finish u c).traps = u.traps ∧ (finish u c).maps = u.maps ∧
      (finish u c).cfg = u.cfg ∧ (finish u c).vic = u.vic ∧
      (finish u c).via1.settings = u.via1.settings ∧ (finish u c).via2.settings = u.via2.settings

/-! ### Results of the documented instructions -/

/-- LDA, LDX, LDY (rules R300 to R302). -/
def Obligations.LoadsComplete : Prop :=
  ∀ s : State,
    (∀ m : AluMode, s.readPlain (readModeOfAlu m) = true →
      CompletesReading (.lda m) (readModeOfAlu m) (fun v r => { r with a := v }.setNZ v) s) ∧
    (∀ m : LdxMode, s.readPlain (readModeOfLdx m) = true →
      CompletesReading (.ldx m) (readModeOfLdx m) (fun v r => { r with x := v }.setNZ v) s) ∧
    (∀ m : LdyMode, s.readPlain (readModeOfLdy m) = true →
      CompletesReading (.ldy m) (readModeOfLdy m) (fun v r => { r with y := v }.setNZ v) s)

/-- STA, STX, STY (rules R303 to R305). -/
def Obligations.StoresComplete : Prop :=
  ∀ s : State,
    (∀ m : StoreMode, s.codePlain (memModeOfStore m) = true →
      CompletesStoring (.sta m) (memModeOfStore m) (s.operandAddress (memModeOfStore m)) s.cpu.a (fun r => r) s) ∧
    (∀ m : StxMode, s.codePlain (memModeOfStx m) = true →
      CompletesStoring (.stx m) (memModeOfStx m) (s.operandAddress (memModeOfStx m)) s.cpu.x (fun r => r) s) ∧
    (∀ m : StyMode, s.codePlain (memModeOfSty m) = true →
      CompletesStoring (.sty m) (memModeOfSty m) (s.operandAddress (memModeOfSty m)) s.cpu.y (fun r => r) s)

/-- TAX TAY TXA TYA TSX TXS INX INY DEX DEY (rules R320 to R325, R356 to R359). -/
def Obligations.RegisterMovesComplete : Prop :=
  ∀ s : State,
    CompletesImplied .tax (fun r => { r with x := r.a }.setNZ r.a) s ∧
    CompletesImplied .tay (fun r => { r with y := r.a }.setNZ r.a) s ∧
    CompletesImplied .txa (fun r => { r with a := r.x }.setNZ r.x) s ∧
    CompletesImplied .tya (fun r => { r with a := r.y }.setNZ r.y) s ∧
    CompletesImplied .tsx (fun r => { r with x := r.s }.setNZ r.s) s ∧
    CompletesImplied .txs (fun r => { r with s := r.x }) s ∧
    CompletesImplied .inx (fun r => { r with x := BitVec.ofNat 8 (r.x.toNat + 1) }.setNZ (BitVec.ofNat 8 (r.x.toNat + 1))) s ∧
    CompletesImplied .iny (fun r => { r with y := BitVec.ofNat 8 (r.y.toNat + 1) }.setNZ (BitVec.ofNat 8 (r.y.toNat + 1))) s ∧
    CompletesImplied .dex
      (fun r => { r with x := BitVec.ofNat 8 (r.x.toNat + 255) }.setNZ (BitVec.ofNat 8 (r.x.toNat + 255))) s ∧
    CompletesImplied .dey
      (fun r => { r with y := BitVec.ofNat 8 (r.y.toNat + 255) }.setNZ (BitVec.ofNat 8 (r.y.toNat + 255))) s

/-- CLC SEC CLI SEI CLD SED CLV and NOP (rules R420 to R427): one flag, or none, and nothing else. -/
def Obligations.FlagInstructionsComplete : Prop :=
  ∀ s : State,
    CompletesImplied .clc (fun r => { r with c := false }) s ∧ CompletesImplied .sec (fun r => { r with c := true }) s ∧
    CompletesImplied .cli (fun r => { r with i := false }) s ∧ CompletesImplied .sei (fun r => { r with i := true }) s ∧
    CompletesImplied .cld (fun r => { r with d := false }) s ∧ CompletesImplied .sed (fun r => { r with d := true }) s ∧
    CompletesImplied .clv (fun r => { r with v := false }) s ∧ CompletesImplied .nop (fun r => r) s

/-- AND, ORA, EOR and BIT (rules R346, R347, R348, R353). -/
def Obligations.LogicCompletes : Prop :=
  ∀ s : State,
    (∀ m : AluMode, s.readPlain (readModeOfAlu m) = true →
      CompletesReading (.and m) (readModeOfAlu m) (fun v r => { r with a := r.a &&& v }.setNZ (r.a &&& v)) s ∧
      CompletesReading (.ora m) (readModeOfAlu m) (fun v r => { r with a := r.a ||| v }.setNZ (r.a ||| v)) s ∧
      CompletesReading (.eor m) (readModeOfAlu m) (fun v r => { r with a := r.a ^^^ v }.setNZ (r.a ^^^ v)) s) ∧
    (∀ m : BitMode, s.codePlain (memModeOfBit m) = true →
      CompletesReading (.bit m) (.mem (memModeOfBit m))
        (fun v r => { r with z := decide (r.a &&& v = 0), n := decide (128 ≤ v.toNat), v := v.getLsbD 6 }) s)

/-- CMP, CPX and CPY (rules R349 to R352): C where the register is not below the operand, Z where they are equal, N from
the difference modulo 256, whatever D is. -/
def Obligations.ComparesComplete : Prop :=
  let compared : Byte → Byte → Regs → Regs := fun x v r =>
    { r with
      c := decide (v.toNat ≤ x.toNat), z := decide (x = v)
      n := decide (128 ≤ (x.toNat + 256 - v.toNat) % 256) }
  ∀ s : State,
    (∀ m : AluMode, s.readPlain (readModeOfAlu m) = true →
      CompletesReading (.cmp m) (readModeOfAlu m) (fun v r => compared r.a v r) s) ∧
    (∀ m : CpxMode, s.readPlain (readModeOfCpx m) = true →
      CompletesReading (.cpx m) (readModeOfCpx m) (fun v r => compared r.x v r) s ∧
      CompletesReading (.cpy m) (readModeOfCpx m) (fun v r => compared r.y v r) s)

/-- ADC and SBC in binary mode (rules R340, R341, R343, R344): the sum, or the difference less the borrow, modulo 256; C its
carry, or the absence of a borrow; V where the sum or difference of the signed values leaves -128 to 127. -/
def Obligations.BinaryArithmeticCompletes : Prop :=
  ∀ (s : State) (m : AluMode), s.readPlain (readModeOfAlu m) = true → s.cpu.d = false →
    CompletesReading (.adc m) (readModeOfAlu m)
      (fun v r =>
        let sum : Nat := r.a.toNat + v.toNat + r.c.toNat
        let signed : Int := r.a.toInt + v.toInt + r.c.toNat
        { r with
          a := BitVec.ofNat 8 sum, c := decide (256 ≤ sum)
          v := decide (signed < -128 ∨ 127 < signed) }.setNZ (BitVec.ofNat 8 sum)) s ∧
    CompletesReading (.sbc m) (readModeOfAlu m)
      (fun v r =>
        let diff : Int := r.a.toNat - v.toNat - (1 - r.c.toNat)
        let signed : Int := r.a.toInt - v.toInt - (1 - r.c.toNat)
        { r with
          a := BitVec.ofInt 8 diff, c := decide (0 ≤ diff)
          v := decide (signed < -128 ∨ 127 < signed) }.setNZ (BitVec.ofInt 8 diff)) s

/-- ADC and SBC in decimal mode (rules R341, R342, R344): any operand, valid BCD or not, goes through the digit
algorithm; N and V follow BCD_NV_POLICY and Z the decimal result. -/
def Obligations.DecimalArithmeticCompletes : Prop :=
  let policy : BcdPolicy → Regs → Regs := fun p r =>
    match p with
    | .clear => { r with n := false, v := false }
    | .preserve => r
  ∀ (s : State) (m : AluMode), s.readPlain (readModeOfAlu m) = true → s.cpu.d = true →
    CompletesReading (.adc m) (readModeOfAlu m)
      (fun v r =>
        let lo0 := r.a.toNat % 16 + v.toNat % 16 + r.c.toNat
        let lo := if lo0 > 9 then lo0 + 6 else lo0
        let hi0 := r.a.toNat / 16 + v.toNat / 16 + (if lo > 15 then 1 else 0)
        let hi := if hi0 > 9 then hi0 + 6 else hi0
        let result : Byte := BitVec.ofNat 8 (hi * 16 + lo % 16)
        policy s.cfg.bcdNV { r with a := result, c := decide (hi > 15), z := decide (result = 0) }) s ∧
    CompletesReading (.sbc m) (readModeOfAlu m)
      (fun v r =>
        let lo0 : Int := (r.a.toNat % 16 : Nat) - (v.toNat % 16 : Nat) - (1 - r.c.toNat)
        let hi0 : Int := (r.a.toNat / 16 : Nat) - (v.toNat / 16 : Nat) - (if lo0 < 0 then 1 else 0)
        let lo : Int := if lo0 < 0 then lo0 - 6 else lo0
        let hi : Int := if hi0 < 0 then hi0 - 6 else hi0
        let result : Byte := BitVec.ofInt 8 (hi * 16 + lo % 16)
        policy s.cfg.bcdNV
          { r with
            a := result, c := decide (0 ≤ (r.a.toNat - v.toNat - (1 - r.c.toNat) : Int)), z := decide (result = 0) }) s

/-- On valid BCD operands the digit algorithms of rules R341 and R344 are decimal addition and subtraction modulo 100,
their carries the decimal carry and the absence of a borrow. -/
def Obligations.BcdIsDecimal : Prop :=
  ∀ (a1 a0 b1 b0 : Nat) (c : Cpu) (m : Byte), a1 < 10 → a0 < 10 → b1 < 10 → b0 < 10 →
    c.a = BitVec.ofNat 8 (16 * a1 + a0) → m = BitVec.ofNat 8 (16 * b1 + b0) →
    let x : Nat := 10 * a1 + a0
    let y : Nat := 10 * b1 + b0
    let sum : Nat := x + y + c.c.toNat
    let diff : Nat := x + 100 + c.c.toNat - y - 1
    (∀ p : BcdPolicy,
      (c.adcDecimal p m).a = BitVec.ofNat 8 (16 * (sum % 100 / 10) + sum % 10) ∧
        (c.adcDecimal p m).c = decide (100 ≤ sum)) ∧
    (∀ p : BcdPolicy,
      (c.sbcDecimal p m).a = BitVec.ofNat 8 (16 * (diff % 100 / 10) + diff % 10) ∧
        (c.sbcDecimal p m).c = decide (100 ≤ diff))

/-- INC and DEC (rules R354, R355): the operand, written back unchanged and then changed by one modulo 256. -/
def Obligations.IncrementsComplete : Prop :=
  ∀ (s : State) (m : IncMode), s.codePlain (memModeOfInc m) = true →
    CompletesModifying (.inc m) (memModeOfInc m) (fun v => BitVec.ofNat 8 (v.toNat + 1))
      (fun v r => r.setNZ (BitVec.ofNat 8 (v.toNat + 1))) s ∧
    CompletesModifying (.dec m) (memModeOfInc m) (fun v => BitVec.ofNat 8 (v.toNat + 255))
      (fun v r => r.setNZ (BitVec.ofNat 8 (v.toNat + 255))) s

/-- ASL, LSR, ROL and ROR (rules R380 to R383), in memory and on the accumulator: the operand shifted one place, C the bit
shifted out, the carry shifted in by the rotates. -/
def Obligations.ShiftsComplete : Prop :=
  ∀ s : State,
    let c : Nat := s.cpu.c.toNat
    let asl : Byte → Byte := fun v => BitVec.ofNat 8 (2 * v.toNat)
    let lsr : Byte → Byte := fun v => BitVec.ofNat 8 (v.toNat / 2)
    let rol : Byte → Byte := fun v => BitVec.ofNat 8 (2 * v.toNat + c)
    let ror : Byte → Byte := fun v => BitVec.ofNat 8 (v.toNat / 2 + 128 * c)
    let top : Byte → Bool := fun v => decide (128 ≤ v.toNat)
    let bottom : Byte → Bool := fun v => decide (v.toNat % 2 = 1)
    (∀ (m : ShiftMode) (mm : MemMode), memModeOfShift m = some mm → s.codePlain mm = true →
      CompletesModifying (.asl m) mm asl (fun v r => { r with c := top v }.setNZ (asl v)) s ∧
      CompletesModifying (.lsr m) mm lsr (fun v r => { r with c := bottom v }.setNZ (lsr v)) s ∧
      CompletesModifying (.rol m) mm rol (fun v r => { r with c := top v }.setNZ (rol v)) s ∧
      CompletesModifying (.ror m) mm ror (fun v r => { r with c := bottom v }.setNZ (ror v)) s) ∧
    CompletesImplied (.asl .acc) (fun r => { r with a := asl r.a, c := top r.a }.setNZ (asl r.a)) s ∧
    CompletesImplied (.lsr .acc) (fun r => { r with a := lsr r.a, c := bottom r.a }.setNZ (lsr r.a)) s ∧
    CompletesImplied (.rol .acc) (fun r => { r with a := rol r.a, c := top r.a }.setNZ (rol r.a)) s ∧
    CompletesImplied (.ror .acc) (fun r => { r with a := ror r.a, c := bottom r.a }.setNZ (ror r.a)) s

/-- PHA, PHP, PLA and PLP (rules R34, R185, R326 to R329): a push writes one byte at S, which goes down by one; a pull
raises S by one and reads there. PHP pushes the flags with bits 5 and 4 set, and PLP takes the six flags from the byte
pulled, so that a status byte pulled restores them whatever its bit 4 is. -/
def Obligations.StackInstructionsComplete : Prop :=
  (∀ s : State,
    let u := beforeCpu (s.afterReads [s.cpu.pc, s.cpu.pc + 1])
    let r := s.readAfter [s.cpu.pc, s.cpu.pc + 1, s.stackAt 0] (s.stackAt 1)
    (∃ c : Cpu, c.regs = { s.fetched .pha with s := s.cpu.s - 1 } ∧
      exec .pha s = .next (finish (busWrite (s.stackAt 0) s.cpu.a u) c)) ∧
    (∃ c : Cpu, c.regs = { s.fetched .php with s := s.cpu.s - 1 } ∧
      exec .php s = .next (finish (busWrite (s.stackAt 0) (s.cpu.pImage true) u) c)) ∧
    (∃ c : Cpu, c.regs = { s.fetched .pla with s := s.cpu.s + 1, a := r.1 }.setNZ r.1 ∧
      exec .pla s = .next (finish r.2 c)) ∧
    (∃ c : Cpu,
      c.regs =
        { s.fetched .plp with
          s := s.cpu.s + 1
          n := r.1.getLsbD 7, v := r.1.getLsbD 6, d := r.1.getLsbD 3, i := r.1.getLsbD 2, z := r.1.getLsbD 1
          c := r.1.getLsbD 0 } ∧
      exec .plp s = .next (finish r.2 c))) ∧
  (∀ (c d : Cpu) (b : Bool), (c.pImage b).getLsbD 5 = true ∧ (c.pImage b).getLsbD 4 = b ∧
    (d.setP (c.pImage b)).regs = { d.regs with n := c.n, v := c.v, d := c.d, i := c.i, z := c.z, c := c.c })

/-! ### Control transfer -/

/-- BPL BMI BVC BVS BCC BCS BNE BEQ (rules R189, R390 to R398). -/
def Obligations.BranchesComplete : Prop :=
  ∀ s : State,
    CompletesBranching .bpl (!s.cpu.n) s ∧ CompletesBranching .bmi s.cpu.n s ∧
    CompletesBranching .bvc (!s.cpu.v) s ∧ CompletesBranching .bvs s.cpu.v s ∧
    CompletesBranching .bcc (!s.cpu.c) s ∧ CompletesBranching .bcs s.cpu.c s ∧
    CompletesBranching .bne (!s.cpu.z) s ∧ CompletesBranching .beq s.cpu.z s

/-- JMP absolute and indirect (rules R188, R399): the indirect pointer's high byte comes from the same page. -/
def Obligations.JumpsComplete : Prop :=
  ∀ s : State,
    let pc := s.cpu.pc
    let ll := (s.readAfter [pc] (pc + 1)).1
    let hh := s.readAfter [pc, pc + 1] (pc + 2)
    let lo := (s.readAfter [pc, pc + 1, pc + 2] (mk16 hh.1 ll)).1
    let hi := s.readAfter [pc, pc + 1, pc + 2, mk16 hh.1 ll] (mk16 hh.1 (ll + 1))
    (∃ c : Cpu, c.regs = { s.fetched (.jmp .abs) with pc := mk16 hh.1 ll } ∧
      exec (.jmp .abs) s = .next (finish hh.2 c)) ∧
    (∃ c : Cpu, c.regs = { s.fetched (.jmp .ind) with pc := mk16 hi.1 lo } ∧
      exec (.jmp .ind) s = .next (finish hi.2 c))

/-- JSR and RTS (rules R186, R400, R401): JSR pushes the address of its last byte, high byte first, and only then fetches
that byte; RTS pulls the address, low byte first, and adds one. -/
def Obligations.SubroutinesComplete : Prop :=
  ∀ s : State,
    let pc := s.cpu.pc
    let ll := (s.readAfter [pc] (pc + 1)).1
    let start := [pc, pc + 1, s.stackAt 0]
    let w := writeTick (s.stackAt 255) (loByte (pc + 2)) (writeTick (s.stackAt 0) (hiByte (pc + 2)) (s.afterReads start))
    let hh := busRead (pc + 2) (beforeCpu w)
    let lo := (s.readAfter start (s.stackAt 1)).1
    let hi := (s.readAfter (start ++ [s.stackAt 1]) (s.stackAt 2)).1
    let last := s.readAfter (start ++ [s.stackAt 1, s.stackAt 2]) (mk16 hi lo)
    (∃ c : Cpu, c.regs = { s.fetched .jsr with s := s.cpu.s - 2, pc := mk16 hh.1 ll } ∧
      exec .jsr s = .next (finish hh.2 c)) ∧
    (∃ c : Cpu, c.regs = { s.fetched .rts with s := s.cpu.s + 2, pc := mk16 hi lo + 1 } ∧
      exec .rts s = .next (finish last.2 c))

/-- A JSR in RAM whose pushes go to RAM, then an RTS from the state it left: PC is the address after the JSR and S is as
before (rules R400, R401), for a return address not on the stack bytes themselves. -/
def Obligations.ReturnAddressIsNextInstruction : Prop :=
  ∀ (s t u : State), s.mem.wf = true → exec .jsr s = .next t → exec .rts t = .next u →
    s.handler (s.stackAt 0) = .ram (s.stackAt 0) → s.handler (s.stackAt 255) = .ram (s.stackAt 255) →
    u.cpu.pc = s.cpu.pc + 3 ∧ u.cpu.s = s.cpu.s

/-- BRK (rules R187, R402, R501): PC + 2 and the status byte with B = 1 are pushed, I is set, and PC comes from the
IRQ/BRK vector. -/
def Obligations.BreakCompletes : Prop :=
  ∀ s : State,
    let pc := s.cpu.pc
    let u := s.afterReads [pc, pc + 1]
    let w := writeTick (s.stackAt 254) (s.cpu.pImage true)
      (writeTick (s.stackAt 255) (loByte (pc + 2)) (writeTick (s.stackAt 0) (hiByte (pc + 2)) u))
    let lo := busRead 0xFFFE (beforeCpu w)
    let hi := busRead 0xFFFF (beforeCpu (afterCpu lo.2))
    ∃ c : Cpu, c.regs = { s.fetched .brk with s := s.cpu.s - 3, i := true, pc := mk16 hi.1 lo.1 } ∧
      exec .brk s = .next (finish hi.2 c)

/-- RTI (rules R186, R403, R518): the six flags and PC pulled, with no adjustment. -/
def Obligations.ReturnFromInterruptCompletes : Prop :=
  ∀ s : State,
    let pc := s.cpu.pc
    let pulls := [pc, pc + 1, s.stackAt 0]
    let p := (s.readAfter pulls (s.stackAt 1)).1
    let lo := (s.readAfter (pulls ++ [s.stackAt 1]) (s.stackAt 2)).1
    let hi := s.readAfter (pulls ++ [s.stackAt 1, s.stackAt 2]) (s.stackAt 3)
    ∃ c : Cpu,
      c.regs =
        { s.fetched .rti with
          s := s.cpu.s + 3, pc := mk16 hi.1 lo
          n := p.getLsbD 7, v := p.getLsbD 6, d := p.getLsbD 3, i := p.getLsbD 2, z := p.getLsbD 1, c := p.getLsbD 0 } ∧
      exec .rti s = .next (finish hi.2 c)

/-! ### Interrupts -/

/-- Rules R513 to R516: taking an interrupt: two dummy reads at PC, the pushes of PC and of the status byte with B = 0, I
set, PC from the kind's vector, in seven ticks; A, X, Y and D as they were. That an opcode fetch follows with no boundary
decision is rule R516, the spec's decision D7. -/
def Obligations.InterruptEntry : Prop :=
  ∀ (s : State) (kind : IntKind), s.cpu.prog = .none → s.cpu.next = .int kind →
    let pc := s.cpu.pc
    let u := s.afterReads [pc, pc]
    let w := writeTick (s.stackAt 254) (s.cpu.pImage false)
      (writeTick (s.stackAt 255) (loByte pc) (writeTick (s.stackAt 0) (hiByte pc) u))
    let vector : Addr := match kind with | .nmi => 0xFFFA | .irq => 0xFFFE
    let lo := busRead vector (beforeCpu w)
    let hi := busRead (vector + 1) (beforeCpu (afterCpu lo.2))
    ∃ t : State, step s = .next t ∧ t = ticks 7 s ∧
      t.cpu.regs = { s.cpu.regs with s := s.cpu.s - 3, i := true, pc := mk16 hi.1 lo.1 } ∧
      t.cpu.prog = .none ∧ t.cpu.next = .fetch ∧ t.mem = hi.2.mem

/-- Rules R505, R510 to R512: the boundary decision. After a branch taken in its page it starts an opcode fetch whatever is
pending and leaves a latched request latched; else a non-maskable request is taken first and cleared; else the maskable
line is taken with I = 0 only. The order is the spec's decision D4 (rule R511), the clear on selection its D5, the delay of both
lines its D8 (rule R512). -/
def Obligations.BoundaryDecision : Prop :=
  ∀ (u : State) (c : Cpu),
    let e := endInstr { u with cpu := c }
    e.cpu.irqDelay = false ∧ e.cpu.prog = .none ∧ e.lines.irqLevel = u.lines.irqLevel ∧ e.lines.nmiLevel = u.lines.nmiLevel ∧
    (c.irqDelay = true → e.cpu.next = .fetch ∧ e.lines.nmiPending = u.lines.nmiPending) ∧
    (c.irqDelay = false → u.lines.nmiPending = true → e.cpu.next = .int .nmi ∧ e.lines.nmiPending = false) ∧
    (c.irqDelay = false → u.lines.nmiPending = false →
      (e.cpu.next = .int .irq ↔ u.lines.irqLevel = true ∧ c.i = false) ∧
        (e.cpu.next = .fetch ↔ ¬(u.lines.irqLevel = true ∧ c.i = false)))

/-- Rule R505: the non-maskable line latches rising edges only: the setter called with a level leaves a request pending if
one was, or if the level rises. -/
def Obligations.NmiIsEdgeTriggered : Prop :=
  ∀ (l : Lines) (levels : List Bool),
    (levels.foldl (fun l b => l.setNmi b) l).nmiPending =
      (l.nmiPending || ((l.nmiLevel :: levels).zip levels).any (fun p => !p.1 && p.2))

/-! ### Undocumented opcodes and TRAP -/

/-- LAX, LAS and the immediate operations under the policy REFERENCE (rules R440, R443 to R450). -/
def Obligations.UndocumentedReadsComplete : Prop :=
  ∀ s : State,
    (∀ m : LaxMode, s.codePlain (memModeOfLax m) = true → runsAsNop s.cfg (.lax m) = false →
      CompletesReading (.lax m) (.mem (memModeOfLax m)) (fun v r => { r with a := v, x := v }.setNZ v) s) ∧
    (s.codePlain .absy = true → runsAsNop s.cfg .las = false →
      CompletesReading .las (.mem .absy)
        (fun v r => { r with a := v &&& r.s, x := v &&& r.s, s := v &&& r.s }.setNZ (v &&& r.s)) s) ∧
    (s.readPlain .imm = true →
      (∀ op : Byte, runsAsNop s.cfg (.anc op) = false → CompletesReading (.anc op) .imm
        (fun v r => { r with a := r.a &&& v, c := (r.a &&& v).getLsbD 7 }.setNZ (r.a &&& v)) s) ∧
      (runsAsNop s.cfg .alr = false → CompletesReading .alr .imm
        (fun v r => { r with a := (r.a &&& v) >>> 1, c := (r.a &&& v).getLsbD 0 }.setNZ ((r.a &&& v) >>> 1)) s) ∧
      (runsAsNop s.cfg .arr = false → CompletesReading .arr .imm
        (fun v r =>
          let t : Byte := BitVec.ofNat 8 ((r.a &&& v).toNat / 2 + 128 * r.c.toNat)
          { r with a := t, c := t.getLsbD 6, v := t.getLsbD 6 ^^ t.getLsbD 5 }.setNZ t) s) ∧
      (runsAsNop s.cfg .sbx = false → CompletesReading .sbx .imm
        (fun v r =>
          { r with x := (r.a &&& r.x) - v, c := decide (v.toNat ≤ (r.a &&& r.x).toNat) }.setNZ ((r.a &&& r.x) - v)) s) ∧
      (runsAsNop s.cfg .ane = false → CompletesReading .ane .imm
        (fun v r => { r with a := (r.a ||| s.cfg.aneMagic) &&& r.x &&& v }.setNZ
          ((r.a ||| s.cfg.aneMagic) &&& r.x &&& v)) s) ∧
      (runsAsNop s.cfg .lxa = false → CompletesReading .lxa .imm
        (fun v r => { r with a := (r.a ||| s.cfg.lxaMagic) &&& v, x := (r.a ||| s.cfg.lxaMagic) &&& v }.setNZ
          ((r.a ||| s.cfg.lxaMagic) &&& v)) s) ∧
      (runsAsNop s.cfg .usbc = false → s.cpu.d = false → CompletesReading .usbc .imm
        (fun v r =>
          let diff : Int := r.a.toNat - v.toNat - (1 - r.c.toNat)
          let signed : Int := r.a.toInt - v.toInt - (1 - r.c.toNat)
          { r with
            a := BitVec.ofInt 8 diff, c := decide (0 ≤ diff)
            v := decide (signed < -128 ∨ 127 < signed) }.setNZ (BitVec.ofInt 8 diff)) s))

/-- SLO, RLA, SRE, RRA, DCP and ISC under the policy REFERENCE (rules R435 to R438, R441, R442), RRA and ISC in binary
mode: the shifted, decremented or incremented operand is stored and combined with A. -/
def Obligations.CombinedModifiesComplete : Prop :=
  ∀ (s : State) (m : StoreMode), s.codePlain (memModeOfStore m) = true →
    let c : Nat := s.cpu.c.toNat
    let asl : Byte → Byte := fun v => BitVec.ofNat 8 (2 * v.toNat)
    let lsr : Byte → Byte := fun v => BitVec.ofNat 8 (v.toNat / 2)
    let rol : Byte → Byte := fun v => BitVec.ofNat 8 (2 * v.toNat + c)
    let ror : Byte → Byte := fun v => BitVec.ofNat 8 (v.toNat / 2 + 128 * c)
    (runsAsNop s.cfg (.slo m) = false → CompletesModifying (.slo m) (memModeOfStore m) asl
      (fun v r => { r with a := r.a ||| asl v, c := decide (128 ≤ v.toNat) }.setNZ (r.a ||| asl v)) s) ∧
    (runsAsNop s.cfg (.rla m) = false → CompletesModifying (.rla m) (memModeOfStore m) rol
      (fun v r => { r with a := r.a &&& rol v, c := decide (128 ≤ v.toNat) }.setNZ (r.a &&& rol v)) s) ∧
    (runsAsNop s.cfg (.sre m) = false → CompletesModifying (.sre m) (memModeOfStore m) lsr
      (fun v r => { r with a := r.a ^^^ lsr v, c := decide (v.toNat % 2 = 1) }.setNZ (r.a ^^^ lsr v)) s) ∧
    (runsAsNop s.cfg (.rra m) = false → s.cpu.d = false → CompletesModifying (.rra m) (memModeOfStore m) ror
      (fun v r =>
        let sum : Nat := r.a.toNat + (ror v).toNat + v.toNat % 2
        let signed : Int := r.a.toInt + (ror v).toInt + (v.toNat % 2 : Nat)
        { r with
          a := BitVec.ofNat 8 sum, c := decide (256 ≤ sum)
          v := decide (signed < -128 ∨ 127 < signed) }.setNZ (BitVec.ofNat 8 sum)) s) ∧
    (runsAsNop s.cfg (.dcp m) = false → CompletesModifying (.dcp m) (memModeOfStore m) (fun v => v - 1)
      (fun v r => { r with c := decide ((v - 1).toNat ≤ r.a.toNat) }.setNZ (r.a - (v - 1))) s) ∧
    (runsAsNop s.cfg (.isc m) = false → s.cpu.d = false → CompletesModifying (.isc m) (memModeOfStore m) (fun v => v + 1)
      (fun v r =>
        let diff : Int := r.a.toNat - (v + 1).toNat - (1 - r.c.toNat)
        let signed : Int := r.a.toInt - (v + 1).toInt - (1 - r.c.toNat)
        { r with
          a := BitVec.ofInt 8 diff, c := decide (0 ≤ diff)
          v := decide (signed < -128 ∨ 127 < signed) }.setNZ (BitVec.ofInt 8 diff)) s)

/-- The decimal forms of RRA, ISC and USBC (rules R438, R442, R447): the result of ADC or SBC's own decimal function on
the same operand, flag by flag. That RRA under PRESERVE keeps the N and V from before the instruction, not the N of its
rotation, is the model's reading (log entry 15). -/
def Obligations.CombinedDecimalCompletes : Prop :=
  ∀ s : State, s.cpu.d = true →
    (∀ m : StoreMode, s.codePlain (memModeOfStore m) = true →
      (runsAsNop s.cfg (.rra m) = false →
        CompletesModifying (.rra m) (memModeOfStore m)
          (fun v => BitVec.ofNat 8 (v.toNat / 2 + 128 * s.cpu.c.toNat))
          (fun v r =>
            let w : Byte := BitVec.ofNat 8 (v.toNat / 2 + 128 * s.cpu.c.toNat)
            let q := bcdAdd r.a w (v.toNat % 2)
            { r with
              a := q.1, c := q.2, z := decide (q.1 = 0)
              n := if s.cfg.bcdNV = .clear then false else r.n
              v := if s.cfg.bcdNV = .clear then false else r.v }) s) ∧
      (runsAsNop s.cfg (.isc m) = false →
        CompletesModifying (.isc m) (memModeOfStore m) (fun v => v + 1)
          (fun v r =>
            let q := bcdSub r.a (v + 1) r.c.toNat
            { r with
              a := q, c := decide (0 ≤ (r.a.toNat - (v + 1).toNat - (1 - r.c.toNat) : Int)), z := decide (q = 0)
              n := if s.cfg.bcdNV = .clear then false else r.n
              v := if s.cfg.bcdNV = .clear then false else r.v }) s)) ∧
    (s.readPlain .imm = true → runsAsNop s.cfg .usbc = false →
      CompletesReading .usbc .imm
        (fun v r =>
          let q := bcdSub r.a v r.c.toNat
          { r with
            a := q, c := decide (0 ≤ (r.a.toNat - v.toNat - (1 - r.c.toNat) : Int)), z := decide (q = 0)
            n := if s.cfg.bcdNV = .clear then false else r.n
            v := if s.cfg.bcdNV = .clear then false else r.v }) s)

/-- SAX and the unstable stores SHA SHX SHY TAS under the policy REFERENCE (rules R439, R451 to R454). -/
def Obligations.UndocumentedStoresComplete : Prop :=
  ∀ s : State,
    let h : MemMode → Byte := fun m => baseHigh s.peek (s.cpu.pc + 1) m + 1
    (∀ m : SaxMode, s.codePlain (memModeOfSax m) = true → runsAsNop s.cfg (.sax m) = false →
      CompletesStoring (.sax m) (memModeOfSax m) (s.operandAddress (memModeOfSax m)) (s.cpu.a &&& s.cpu.x) (fun r => r) s) ∧
    (∀ m : ShaMode, s.codePlain (memModeOfSha m) = true → runsAsNop s.cfg (.sha m) = false →
      let v := s.cpu.a &&& s.cpu.x &&& h (memModeOfSha m)
      CompletesStoring (.sha m) (memModeOfSha m) (s.unstableAddress (memModeOfSha m) v) v (fun r => r) s) ∧
    (s.codePlain .absy = true → runsAsNop s.cfg .shx = false →
      let v := s.cpu.x &&& h .absy
      CompletesStoring .shx .absy (s.unstableAddress .absy v) v (fun r => r) s) ∧
    (s.codePlain .absx = true → runsAsNop s.cfg .shy = false →
      let v := s.cpu.y &&& h .absx
      CompletesStoring .shy .absx (s.unstableAddress .absx v) v (fun r => r) s) ∧
    (s.codePlain .absy = true → runsAsNop s.cfg .tas = false →
      let v := s.cpu.a &&& s.cpu.x &&& h .absy
      CompletesStoring .tas .absy (s.unstableAddress .absy v) v (fun r => { r with s := s.cpu.a &&& s.cpu.x }) s)

/-- JAM and the undocumented NOPs (rules R431, R433, R434): nothing changes but PC and, under the policy NOP, the
diagnostic count; the CPU goes on. That an undocumented NOP whose policy is NOP, which the default table does not have, reads
its operand as under REFERENCE is the model's choice (log entry 7). -/
def Obligations.UndocumentedNopsComplete : Prop :=
  ∀ (s : State) (op : Byte),
    CompletesImplied (.jam op) (fun r => r) s ∧ CompletesImplied (.nopUndoc .imp op) (fun r => r) s ∧
    (∀ (m : NopMode) (rm : ReadMode), readModeOfNop m = some rm → s.readPlain rm = true →
      CompletesReading (.nopUndoc m op) rm (fun _ r => r) s)

/-- Rules R430, R431: an undocumented opcode whose policy is NOP answers a next state with every register and flag as
before but PC, the diagnostic count one higher, and no byte of memory changed, in any state. The bus pattern of a policy
outside the default table is the model's choice (log entry 7). -/
def Obligations.NopPolicyChangesNothing : Prop :=
  ∀ (i : Instr) (s : State), i.wellFormed = true → runsAsNop s.cfg i = true →
    ∃ t : State, exec i s = .next t ∧ t.mem = s.mem ∧
      t.cpu.regs =
        { s.cpu.regs with
          pc := s.cpu.pc + 1 + BitVec.ofNat 16 i.operandBytes, irqDelay := false, undocCount := s.cpu.undocCount + 1 }

/-- TRAP (rule R456): in its second tick the callback registered at the trap's address is called, its bus accesses happen
in order, and PC becomes the value it returns, or stays after the trap byte; no other register or flag changes. That what
a callback does is data the host presents is the model's choice (log entry 4). -/
def Obligations.TrapCompletes : Prop :=
  ∀ (s : State) (r : TrapRecord), s.trapAt s.cpu.pc = some r →
    let u := (s.readAfter [s.cpu.pc] (s.cpu.pc + 1)).2
    let run := u.inputs.callbackRun
    let called : State := { u with hostCalls := .trapCallback r.callback s.cpu.pc :: u.hostCalls }
    ∃ c : Cpu, c.regs = { s.cpu.regs with pc := run.newPc.getD (s.cpu.pc + 1) } ∧
      exec .trap s = .next (finish (run.accesses.foldl callbackAccess called) c)

/-! ### Frames -/

/-- Rules R30, R31: each of A, X, Y and S is changed only by the instructions that the rules list for it, in any state. -/
def Obligations.RegistersWrittenOnlyBy : Prop :=
  ∀ (i : Instr) (s t : State), exec i s = .next t →
    (writesA i = false → t.cpu.a = s.cpu.a) ∧ (writesX i = false → t.cpu.x = s.cpu.x) ∧
      (writesY i = false → t.cpu.y = s.cpu.y) ∧ (writesS i = false → t.cpu.s = s.cpu.s)

/-- Rule R35: each flag is changed only by the instructions that the rules list for it, in any state. -/
def Obligations.FlagsWrittenOnlyBy : Prop :=
  ∀ (i : Instr) (s t : State), exec i s = .next t →
    (writesNZ i = false → t.cpu.n = s.cpu.n ∧ t.cpu.z = s.cpu.z) ∧ (writesV i = false → t.cpu.v = s.cpu.v) ∧
      (writesD i = false → t.cpu.d = s.cpu.d) ∧ (writesI i = false → t.cpu.i = s.cpu.i) ∧
      (writesC i = false → t.cpu.c = s.cpu.c)

/-- The frame of the instructions that store nothing, in any state: every byte of memory, the trap table, the address map,
the parameters, the video registers and every timer-chip register but its flags, counters and input latches is as before. -/
def Obligations.NonStoringFrame : Prop :=
  ∀ (i : Instr) (s t : State), mayStore i = false → exec i s = .next t →
    (∀ a : Addr, rawRead t.mem a = rawRead s.mem a) ∧ t.traps = s.traps ∧ t.maps = s.maps ∧ t.cfg = s.cfg ∧
      ChipsKept s t

/-- The frame of the stores, the read-modify-write instructions and the unstable stores: every byte of memory but the cell
that a store to the instruction's own address reaches is as before, and every chip register too where that address is
plain memory. The unstable stores' address is that of rule R451. -/
def Obligations.StoringFrame : Prop :=
  ∀ (i : Instr) (m : MemMode) (s t : State), s.codePlain m = true → exec i s = .next t →
    let h := baseHigh s.peek (s.cpu.pc + 1) m + 1
    (storeMode i = some m →
      (∀ c : Addr, s.storedCell (s.operandAddress m) ≠ some c → rawRead t.mem c = rawRead s.mem c) ∧
        (s.plainAt (s.operandAddress m) = true → ChipsKept s t) ∧
        t.traps = s.traps ∧ t.maps = s.maps ∧ t.cfg = s.cfg) ∧
    (∀ v : Byte,
      (i = .sha .izy ∧ m = .izy ∧ v = s.cpu.a &&& s.cpu.x &&& h) ∨
        (i = .sha .absy ∧ m = .absy ∧ v = s.cpu.a &&& s.cpu.x &&& h) ∨
        (i = .shx ∧ m = .absy ∧ v = s.cpu.x &&& h) ∨ (i = .shy ∧ m = .absx ∧ v = s.cpu.y &&& h) ∨
        (i = .tas ∧ m = .absy ∧ v = s.cpu.a &&& s.cpu.x &&& h) →
      (∀ c : Addr, s.storedCell (s.unstableAddress m v) ≠ some c → rawRead t.mem c = rawRead s.mem c) ∧
        (s.plainAt (s.unstableAddress m v) = true → ChipsKept s t) ∧
        t.traps = s.traps ∧ t.maps = s.maps ∧ t.cfg = s.cfg)

/-- The frame of the pushes and of interrupt entry: every byte of memory but the one, two or three stack cells pushed to is
as before, and every chip register too where those stack addresses are plain memory, in any state. -/
def Obligations.StackFrame : Prop :=
  ∀ s t : State,
    let kept : List Byte → Prop := fun pushed =>
      (∀ c : Addr, (∀ k ∈ pushed, s.storedCell (s.stackAt k) ≠ some c) → rawRead t.mem c = rawRead s.mem c) ∧
        ((∀ k ∈ pushed, s.plainAt (s.stackAt k) = true) → ChipsKept s t)
    (exec .pha s = .next t → kept [0]) ∧ (exec .php s = .next t → kept [0]) ∧ (exec .jsr s = .next t → kept [0, 255]) ∧
      (exec .brk s = .next t → kept [0, 255, 254]) ∧
      (∀ k : IntKind, s.cpu.prog = .none → s.cpu.next = .int k → step s = .next t → kept [0, 255, 254])

/-- Rules R42, R51, R60, R61, R118: no step changes the trap table, the address map or the parameters, and none changes
a byte that no handler of the map reaches by a store. -/
def Obligations.StepKeepsConfiguration : Prop :=
  ∀ s t : State, step s = .next t →
    t.traps = s.traps ∧ t.maps = s.maps ∧ t.cfg = s.cfg ∧
      (∀ c : Addr, (∀ a : Addr, s.storedCell a ≠ some c) → rawRead t.mem c = rawRead s.mem c)

/-! ### Timer/IO chips -/

/-- Rules R609, R621, R622, R623: a write of T1C-H or T2C-H loads the counter from the byte and the low latch, clears the
timer's flag and holds the counter for one chip cycle; from a counter N it then counts down by one a cycle, and the flag is
set in the chip cycle N + 1 after the one that follows the write, in no earlier one, as the counter wraps to 0xFFFF and a
one-shot is spent; whatever the mode and the control lines. -/
def Obligations.TimerUnderflow : Prop :=
  ∀ (v : Via) (x : Byte) (inputs : List ChipInputs),
    let run : Via → Via := fun started => inputs.foldl (fun v i => Via.cycle i v) started
    let j := inputs.length
    (let started := v.write 5 x
      let n := 256 * x.toNat + v.t1l.toNat % 256
      let after := run started
      started.t1c.toNat = n ∧ started.t1l.toNat = n ∧ started.ifr.getLsbD ifrT1 = false ∧
        (1 ≤ j → j ≤ n + 1 → after.t1c.toNat = n + 1 - j) ∧
        (j ≤ n + 1 → after.ifr.getLsbD ifrT1 = false) ∧
        (j = n + 2 → after.ifr.getLsbD ifrT1 = true ∧ after.t1c = 0xFFFF ∧
          (v.acr.getLsbD 6 = false → after.t1Armed = false) ∧ (v.acr.getLsbD 6 = true → after.t1Reload = true))) ∧
    (let started := v.write 9 x
      let n := 256 * x.toNat + v.t2ll.toNat
      let after := run started
      started.t2c.toNat = n ∧ started.ifr.getLsbD ifrT2 = false ∧
        (1 ≤ j → j ≤ n + 1 → after.t2c.toNat = n + 1 - j) ∧
        (j ≤ n + 1 → after.ifr.getLsbD ifrT2 = false) ∧
        (j = n + 2 → after.ifr.getLsbD ifrT2 = true ∧ after.t2c = 0xFFFF ∧ after.t2Armed = false))

/-- Rules R621, R622, R624: in one-shot mode, which timer 2 always has, the flag, once the one-shot is spent and the flag
cleared by software, stays clear until the counter's high byte is written again, although the counter runs on; in free-run
mode with the latch L timer 1 sets its flag again every L + 2 cycles, whether it is armed or not. -/
def Obligations.TimerModes : Prop :=
  ∀ (v : Via) (inputs : List ChipInputs),
    let run : Via → Via := fun v => inputs.foldl (fun v i => Via.cycle i v) v
    (v.acr.getLsbD 6 = false → v.t1Armed = false → v.ifr.getLsbD ifrT1 = false →
      (run v).ifr.getLsbD ifrT1 = false) ∧
    (v.t2Armed = false → v.ifr.getLsbD ifrT2 = false → (run v).ifr.getLsbD ifrT2 = false) ∧
    (v.t2Hold = false → (run v).t2c = v.t2c - BitVec.ofNat 16 inputs.length) ∧
    (v.acr.getLsbD 6 = true → v.t1Hold = false → v.t1Reload = true →
      let after := run { v with ifr := v.ifr &&& ~~~(1#7 <<< ifrT1) }
      (inputs.length ≤ v.t1l.toNat + 1 → after.ifr.getLsbD ifrT1 = false) ∧
        (inputs.length = v.t1l.toNat + 2 → after.ifr.getLsbD ifrT1 = true ∧ after.t1Reload = true))

/-- Rules R603, R604, R607, R610, R650 to R652: bit 7 of IFR reads as the aggregate and bit 7 of IER as 1; a write of IFR
clears the bits written 1 and a write of IER sets or clears the bits written 1, by its bit 7; a read, and a write of another
register, clears the flags of its row and a read changes nothing else; a port pin is the output bit where the direction bit
is 1 and the source's bit where it is 0, and a port read returns the pins or, with its ACR bit set, the latch; a chip cycle
sets the flag of each control line whose level changed to its active one, which latches the port for CA1 and CB1; and a
write of PCR drives CA2 and CB2 low in the control mode 110 alone. -/
def Obligations.TimerChipRegistersAndLines : Prop :=
  ∀ (v : Via) (inp : ChipInputs) (x : Byte),
    ((v.readValue inp 13).getLsbD 7 = true ↔ ∃ k : Nat, k < 7 ∧ v.ifr.getLsbD k = true ∧ v.ier.getLsbD k = true) ∧
    (v.readValue inp 14).getLsbD 7 = true ∧
    (∀ j : Nat, j < 7 →
      (v.readValue inp 13).getLsbD j = v.ifr.getLsbD j ∧ (v.readValue inp 14).getLsbD j = v.ier.getLsbD j ∧
      (v.write 13 x).ifr.getLsbD j = (v.ifr.getLsbD j && !x.getLsbD j) ∧
      (v.write 14 x).ier.getLsbD j = (if x.getLsbD j then x.getLsbD 7 else v.ier.getLsbD j)) ∧
    (∀ (r : BitVec 4) (j : Nat), j < 7 →
      (v.clearOnRead r).ifr.getLsbD j = (v.ifr.getLsbD j && !(flagsCleared v false r).contains j) ∧
      (r ≠ 13 → (v.write r x).ifr.getLsbD j = (v.ifr.getLsbD j && !(flagsCleared v true r).contains j)) ∧
      v.clearOnRead r = { v with ifr := (v.clearOnRead r).ifr }) ∧
    (∀ j : Nat, j < 8 →
      (v.pinA inp).getLsbD j = (if v.ddra.getLsbD j then v.ora.getLsbD j else (inp.pinA.value v.portSel).getLsbD j) ∧
      (v.pinB inp).getLsbD j = (if v.ddrb.getLsbD j then v.orb.getLsbD j else (inp.pinB.value v.portSel).getLsbD j)) ∧
    (∀ r : BitVec 4, r = 1 ∨ r = 15 → v.readValue inp r = (if v.acr.getLsbD 0 then v.ira else v.pinA inp)) ∧
    v.readValue inp 0 = (if v.acr.getLsbD 1 then v.irb else v.pinB inp) ∧
    (let w := v.cycle inp
      let ca1 : Bool := inp.ca1 != v.lastCa1 && inp.ca1 == v.pcr.getLsbD 0
      let cb1 : Bool := inp.cb1 != v.lastCb1 && inp.cb1 == v.pcr.getLsbD 4
      let ca2 : Bool := !v.pcr.getLsbD 3 && inp.ca2 != v.lastCa2 && inp.ca2 == v.pcr.getLsbD 2
      let cb2 : Bool := !v.pcr.getLsbD 7 && inp.cb2 != v.lastCb2 && inp.cb2 == v.pcr.getLsbD 6
      w.ifr.getLsbD 1 = (v.ifr.getLsbD 1 || ca1) ∧ w.ifr.getLsbD 4 = (v.ifr.getLsbD 4 || cb1) ∧
        w.ifr.getLsbD 0 = (v.ifr.getLsbD 0 || ca2) ∧ w.ifr.getLsbD 3 = (v.ifr.getLsbD 3 || cb2) ∧
        w.ira = (if ca1 then v.pinA inp else v.ira) ∧ w.irb = (if cb1 then v.pinB inp else v.irb) ∧
        w.lastCa1 = inp.ca1 ∧ w.lastCb1 = inp.cb1 ∧ w.lastCa2 = inp.ca2 ∧ w.lastCb2 = inp.cb2) ∧
    ((v.write 12 x).ca2Out = decide (x.toNat / 2 % 8 ≠ 6) ∧ (v.write 12 x).cb2Out = decide (x.toNat / 32 ≠ 6))

/-! ### Video chip -/

/-- Rule R735: from the start of a frame the signal is raised in the chip cycle number TOTAL_WIDTH x TOTAL_HEIGHT / 4 and
in none before, whatever the registers and the memory hold at each cycle; and a frame read back has TOTAL_WIDTH x
TOTAL_HEIGHT pixels. -/
def Obligations.FramePeriod : Prop :=
  ∀ (k : MachineCfg) (v : Vic) (mems : List Memory), v.hcount = 0 → v.vcount = 0 → v.frameComplete = false →
    let period := k.variant.totalWidth * k.variant.totalHeight / 4
    let after := mems.foldl (fun v m => Vic.cycle k m v) v
    (mems.length < period → after.frameComplete = false ∧ after.hcount = 4 * mems.length % k.variant.totalWidth ∧
      after.vcount = 4 * mems.length / k.variant.totalWidth) ∧
    (mems.length = period → after.frameComplete = true ∧ after.hcount = 0 ∧ after.vcount = 0 ∧ after.shown = after.work) ∧
    (∀ s : State, (getFramebuffer s).1.length = s.cfg.variant.totalWidth * s.cfg.variant.totalHeight)

/-- Rules R701, R702, R704: what a read of the video registers returns after a write: the byte, but for the raster bits, which
are the line counter and cannot be written, and the registers that take none and read the host's inputs (rule R702,
decision D44); no register shows the horizontal position. -/
def Obligations.VideoRegisterReadback : Prop :=
  ∀ (v : Vic) (inp : HostInputs) (r : BitVec 4) (x : Byte),
    (r ≠ 3 → r ≠ 4 → r ≠ 6 → r ≠ 7 → r ≠ 8 → r ≠ 9 → (v.write r x).read inp r = x) ∧
    (v.write 3 x).read inp 3 = BitVec.ofNat 8 (128 * (v.vcount % 2) + x.toNat % 128) ∧
    (v.write 4 x).read inp 4 = BitVec.ofNat 8 (v.vcount / 2) ∧ (v.write 6 x).read inp 6 = inp.lpx ∧
    (v.write 7 x).read inp 7 = inp.lpy ∧ (v.write 8 x).read inp 8 = inp.potx ∧ (v.write 9 x).read inp 9 = inp.poty ∧
    (v.write r x).vcount = v.vcount ∧ (∀ h : Nat, { v with hcount := h }.read inp r = v.read inp r)

/-- Rules R730, R732, R733: what one chip cycle writes to the frame in the making. In a blanked line nothing; in any other line
four pixels at the cursor and nothing elsewhere: the border colour outside the matrix, and inside it half a cell, the first
half of the bitmap byte fetched now or the second half of the one latched, each bit choosing foreground or background in a
hires cell, by the reverse control, and each pair of bits one of four colours in a multicolour cell, whatever the reverse
control. -/
def Obligations.ChipCyclePixels : Prop :=
  ∀ (k : MachineCfg) (mem : Memory) (v : Vic), v.Inv k →
    let g := v.geometry k
    let x : Int := v.hcount - g.left
    let inCell : Prop := g.top ≤ v.vcount ∧ (v.vcount : Int) < g.bottom ∧ 0 ≤ x ∧ x < 8 * g.columns
    let bitmap : Byte :=
      if x % 8 = 0 then Sparse.read mem (vicToCpu ((g.cmBase + v.code.toNat * g.h + v.depth) % 16384)) else v.bitmap
    let bit : Nat → Bool := fun j => bitmap.getLsbD ((if x % 8 = 0 then 7 else 3) - j)
    let foreground : BitVec 4 := BitVec.ofNat 4 (v.colour.toNat % 8)
    let pixel : Nat → BitVec 4 := fun j => Sparse.read (v.cycle k mem).work (v.cursor + j)
    (v.vcount < k.vblankLines → (v.cycle k mem).work = v.work) ∧
    (k.vblankLines ≤ v.vcount →
      (∀ i : Nat, i < v.cursor ∨ v.cursor + 4 ≤ i → Sparse.read (v.cycle k mem).work i = Sparse.read v.work i) ∧
      (¬inCell → ∀ j : Nat, j < 4 → pixel j = BitVec.ofNat 4 ((v.reg 15).toNat % 8)) ∧
      (inCell → v.colour.getLsbD 3 = false → ∀ j : Nat, j < 4 →
        pixel j = (if bit j != g.reverse then foreground else g.bg)) ∧
      (inCell → v.colour.getLsbD 3 = true → ∀ j : Nat, j < 4 →
        pixel j =
          (match bit (j / 2 * 2), bit (j / 2 * 2 + 1) with
            | false, false => g.bg
            | false, true => BitVec.ofNat 4 ((v.reg 15).toNat % 8)
            | true, false => foreground
            | true, true => g.aux)))

/-! ### The host loop -/

/-- Rule R82: `update` runs the elapsed time times the clock, rounded to the nearest integer with halves up (decision D39), and
no tick for a time that is not positive; after each tick it makes a frame-complete query, and its answer is true if one of
them answered true. The machine it leaves is that of as many plain ticks with the signal consumed. That the time is a
fraction is the model's choice (log entry 12). -/
def Obligations.UpdateRunsRoundedTicks : Prop :=
  ∀ (s : State) (num : Int) (den : Nat), 0 < den →
    let n := updateCycles s.cfg.variant num den
    let plain := ticks n s
    (num ≤ 0 → n = 0) ∧
    (0 < num →
      (2 * den : Int) * n ≤ 2 * num * s.cfg.variant.cyclesPerSecond + den ∧
        2 * num * s.cfg.variant.cyclesPerSecond + den < (2 * den : Int) * (n + 1)) ∧
    ((update num den s).1 = true ↔ ∃ j : Nat, j < n ∧ (frameCompleteQuery (tick (queriedTicks j s))).1 = true) ∧
    ((update num den s).1 = true ↔ 0 < n ∧ plain.vic.frameComplete = true) ∧
    (update num den s).2 = queriedTicks n s ∧
    (update num den s).2 =
      (if n = 0 then s else { plain with vic := { plain.vic with frameComplete := false } })
end

