-- ==== Sys2Proof/Laws/State.lean ====
section
/-! SUPPORT. One lemma per field per update of the CPU, true by `rfl`, so that no proof unfolds an update. -/

namespace Sys2Proof.Machine

open Sys2Proof

/-! `Cpu.incPc` -/

@[simp] theorem Cpu.incPc_a (c : Cpu) : (c.incPc).a = c.a := rfl
@[simp] theorem Cpu.incPc_x (c : Cpu) : (c.incPc).x = c.x := rfl
@[simp] theorem Cpu.incPc_y (c : Cpu) : (c.incPc).y = c.y := rfl
@[simp] theorem Cpu.incPc_s (c : Cpu) : (c.incPc).s = c.s := rfl
@[simp] theorem Cpu.incPc_n (c : Cpu) : (c.incPc).n = c.n := rfl
@[simp] theorem Cpu.incPc_v (c : Cpu) : (c.incPc).v = c.v := rfl
@[simp] theorem Cpu.incPc_d (c : Cpu) : (c.incPc).d = c.d := rfl
@[simp] theorem Cpu.incPc_i (c : Cpu) : (c.incPc).i = c.i := rfl
@[simp] theorem Cpu.incPc_z (c : Cpu) : (c.incPc).z = c.z := rfl
@[simp] theorem Cpu.incPc_c (c : Cpu) : (c.incPc).c = c.c := rfl
@[simp] theorem Cpu.incPc_prog (c : Cpu) : (c.incPc).prog = c.prog := rfl
@[simp] theorem Cpu.incPc_t (c : Cpu) : (c.incPc).t = c.t := rfl
@[simp] theorem Cpu.incPc_next (c : Cpu) : (c.incPc).next = c.next := rfl
@[simp] theorem Cpu.incPc_adl (c : Cpu) : (c.incPc).adl = c.adl := rfl
@[simp] theorem Cpu.incPc_adh (c : Cpu) : (c.incPc).adh = c.adh := rfl
@[simp] theorem Cpu.incPc_ptr (c : Cpu) : (c.incPc).ptr = c.ptr := rfl
@[simp] theorem Cpu.incPc_data (c : Cpu) : (c.incPc).data = c.data := rfl
@[simp] theorem Cpu.incPc_ea (c : Cpu) : (c.incPc).ea = c.ea := rfl
@[simp] theorem Cpu.incPc_cross (c : Cpu) : (c.incPc).cross = c.cross := rfl
@[simp] theorem Cpu.incPc_off (c : Cpu) : (c.incPc).off = c.off := rfl
@[simp] theorem Cpu.incPc_irqDelay (c : Cpu) : (c.incPc).irqDelay = c.irqDelay := rfl
@[simp] theorem Cpu.incPc_undocCount (c : Cpu) : (c.incPc).undocCount = c.undocCount := rfl

/-! `Cpu.setNZ` -/

@[simp] theorem Cpu.setNZ_a (c : Cpu) (r : Byte) : (c.setNZ r).a = c.a := rfl
@[simp] theorem Cpu.setNZ_x (c : Cpu) (r : Byte) : (c.setNZ r).x = c.x := rfl
@[simp] theorem Cpu.setNZ_y (c : Cpu) (r : Byte) : (c.setNZ r).y = c.y := rfl
@[simp] theorem Cpu.setNZ_s (c : Cpu) (r : Byte) : (c.setNZ r).s = c.s := rfl
@[simp] theorem Cpu.setNZ_pc (c : Cpu) (r : Byte) : (c.setNZ r).pc = c.pc := rfl
@[simp] theorem Cpu.setNZ_v (c : Cpu) (r : Byte) : (c.setNZ r).v = c.v := rfl
@[simp] theorem Cpu.setNZ_d (c : Cpu) (r : Byte) : (c.setNZ r).d = c.d := rfl
@[simp] theorem Cpu.setNZ_i (c : Cpu) (r : Byte) : (c.setNZ r).i = c.i := rfl
@[simp] theorem Cpu.setNZ_c (c : Cpu) (r : Byte) : (c.setNZ r).c = c.c := rfl
@[simp] theorem Cpu.setNZ_prog (c : Cpu) (r : Byte) : (c.setNZ r).prog = c.prog := rfl
@[simp] theorem Cpu.setNZ_t (c : Cpu) (r : Byte) : (c.setNZ r).t = c.t := rfl
@[simp] theorem Cpu.setNZ_next (c : Cpu) (r : Byte) : (c.setNZ r).next = c.next := rfl
@[simp] theorem Cpu.setNZ_adl (c : Cpu) (r : Byte) : (c.setNZ r).adl = c.adl := rfl
@[simp] theorem Cpu.setNZ_adh (c : Cpu) (r : Byte) : (c.setNZ r).adh = c.adh := rfl
@[simp] theorem Cpu.setNZ_ptr (c : Cpu) (r : Byte) : (c.setNZ r).ptr = c.ptr := rfl
@[simp] theorem Cpu.setNZ_data (c : Cpu) (r : Byte) : (c.setNZ r).data = c.data := rfl
@[simp] theorem Cpu.setNZ_ea (c : Cpu) (r : Byte) : (c.setNZ r).ea = c.ea := rfl
@[simp] theorem Cpu.setNZ_cross (c : Cpu) (r : Byte) : (c.setNZ r).cross = c.cross := rfl
@[simp] theorem Cpu.setNZ_off (c : Cpu) (r : Byte) : (c.setNZ r).off = c.off := rfl
@[simp] theorem Cpu.setNZ_irqDelay (c : Cpu) (r : Byte) : (c.setNZ r).irqDelay = c.irqDelay := rfl
@[simp] theorem Cpu.setNZ_undocCount (c : Cpu) (r : Byte) : (c.setNZ r).undocCount = c.undocCount := rfl

/-! `Cpu.setP` -/

@[simp] theorem Cpu.setP_a (c : Cpu) (p : Byte) : (c.setP p).a = c.a := rfl
@[simp] theorem Cpu.setP_x (c : Cpu) (p : Byte) : (c.setP p).x = c.x := rfl
@[simp] theorem Cpu.setP_y (c : Cpu) (p : Byte) : (c.setP p).y = c.y := rfl
@[simp] theorem Cpu.setP_s (c : Cpu) (p : Byte) : (c.setP p).s = c.s := rfl
@[simp] theorem Cpu.setP_pc (c : Cpu) (p : Byte) : (c.setP p).pc = c.pc := rfl
@[simp] theorem Cpu.setP_prog (c : Cpu) (p : Byte) : (c.setP p).prog = c.prog := rfl
@[simp] theorem Cpu.setP_t (c : Cpu) (p : Byte) : (c.setP p).t = c.t := rfl
@[simp] theorem Cpu.setP_next (c : Cpu) (p : Byte) : (c.setP p).next = c.next := rfl
@[simp] theorem Cpu.setP_adl (c : Cpu) (p : Byte) : (c.setP p).adl = c.adl := rfl
@[simp] theorem Cpu.setP_adh (c : Cpu) (p : Byte) : (c.setP p).adh = c.adh := rfl
@[simp] theorem Cpu.setP_ptr (c : Cpu) (p : Byte) : (c.setP p).ptr = c.ptr := rfl
@[simp] theorem Cpu.setP_data (c : Cpu) (p : Byte) : (c.setP p).data = c.data := rfl
@[simp] theorem Cpu.setP_ea (c : Cpu) (p : Byte) : (c.setP p).ea = c.ea := rfl
@[simp] theorem Cpu.setP_cross (c : Cpu) (p : Byte) : (c.setP p).cross = c.cross := rfl
@[simp] theorem Cpu.setP_off (c : Cpu) (p : Byte) : (c.setP p).off = c.off := rfl
@[simp] theorem Cpu.setP_irqDelay (c : Cpu) (p : Byte) : (c.setP p).irqDelay = c.irqDelay := rfl
@[simp] theorem Cpu.setP_undocCount (c : Cpu) (p : Byte) : (c.setP p).undocCount = c.undocCount := rfl

/-! `Cpu.loadA` -/

@[simp] theorem Cpu.loadA_x (c : Cpu) (r : Byte) : (c.loadA r).x = c.x := rfl
@[simp] theorem Cpu.loadA_y (c : Cpu) (r : Byte) : (c.loadA r).y = c.y := rfl
@[simp] theorem Cpu.loadA_s (c : Cpu) (r : Byte) : (c.loadA r).s = c.s := rfl
@[simp] theorem Cpu.loadA_pc (c : Cpu) (r : Byte) : (c.loadA r).pc = c.pc := rfl
@[simp] theorem Cpu.loadA_v (c : Cpu) (r : Byte) : (c.loadA r).v = c.v := rfl
@[simp] theorem Cpu.loadA_d (c : Cpu) (r : Byte) : (c.loadA r).d = c.d := rfl
@[simp] theorem Cpu.loadA_i (c : Cpu) (r : Byte) : (c.loadA r).i = c.i := rfl
@[simp] theorem Cpu.loadA_c (c : Cpu) (r : Byte) : (c.loadA r).c = c.c := rfl
@[simp] theorem Cpu.loadA_prog (c : Cpu) (r : Byte) : (c.loadA r).prog = c.prog := rfl
@[simp] theorem Cpu.loadA_t (c : Cpu) (r : Byte) : (c.loadA r).t = c.t := rfl
@[simp] theorem Cpu.loadA_next (c : Cpu) (r : Byte) : (c.loadA r).next = c.next := rfl
@[simp] theorem Cpu.loadA_adl (c : Cpu) (r : Byte) : (c.loadA r).adl = c.adl := rfl
@[simp] theorem Cpu.loadA_adh (c : Cpu) (r : Byte) : (c.loadA r).adh = c.adh := rfl
@[simp] theorem Cpu.loadA_ptr (c : Cpu) (r : Byte) : (c.loadA r).ptr = c.ptr := rfl
@[simp] theorem Cpu.loadA_data (c : Cpu) (r : Byte) : (c.loadA r).data = c.data := rfl
@[simp] theorem Cpu.loadA_ea (c : Cpu) (r : Byte) : (c.loadA r).ea = c.ea := rfl
@[simp] theorem Cpu.loadA_cross (c : Cpu) (r : Byte) : (c.loadA r).cross = c.cross := rfl
@[simp] theorem Cpu.loadA_off (c : Cpu) (r : Byte) : (c.loadA r).off = c.off := rfl
@[simp] theorem Cpu.loadA_irqDelay (c : Cpu) (r : Byte) : (c.loadA r).irqDelay = c.irqDelay := rfl
@[simp] theorem Cpu.loadA_undocCount (c : Cpu) (r : Byte) : (c.loadA r).undocCount = c.undocCount := rfl

/-! `Cpu.loadX` -/

@[simp] theorem Cpu.loadX_a (c : Cpu) (r : Byte) : (c.loadX r).a = c.a := rfl
@[simp] theorem Cpu.loadX_y (c : Cpu) (r : Byte) : (c.loadX r).y = c.y := rfl
@[simp] theorem Cpu.loadX_s (c : Cpu) (r : Byte) : (c.loadX r).s = c.s := rfl
@[simp] theorem Cpu.loadX_pc (c : Cpu) (r : Byte) : (c.loadX r).pc = c.pc := rfl
@[simp] theorem Cpu.loadX_v (c : Cpu) (r : Byte) : (c.loadX r).v = c.v := rfl
@[simp] theorem Cpu.loadX_d (c : Cpu) (r : Byte) : (c.loadX r).d = c.d := rfl
@[simp] theorem Cpu.loadX_i (c : Cpu) (r : Byte) : (c.loadX r).i = c.i := rfl
@[simp] theorem Cpu.loadX_c (c : Cpu) (r : Byte) : (c.loadX r).c = c.c := rfl
@[simp] theorem Cpu.loadX_prog (c : Cpu) (r : Byte) : (c.loadX r).prog = c.prog := rfl
@[simp] theorem Cpu.loadX_t (c : Cpu) (r : Byte) : (c.loadX r).t = c.t := rfl
@[simp] theorem Cpu.loadX_next (c : Cpu) (r : Byte) : (c.loadX r).next = c.next := rfl
@[simp] theorem Cpu.loadX_adl (c : Cpu) (r : Byte) : (c.loadX r).adl = c.adl := rfl
@[simp] theorem Cpu.loadX_adh (c : Cpu) (r : Byte) : (c.loadX r).adh = c.adh := rfl
@[simp] theorem Cpu.loadX_ptr (c : Cpu) (r : Byte) : (c.loadX r).ptr = c.ptr := rfl
@[simp] theorem Cpu.loadX_data (c : Cpu) (r : Byte) : (c.loadX r).data = c.data := rfl
@[simp] theorem Cpu.loadX_ea (c : Cpu) (r : Byte) : (c.loadX r).ea = c.ea := rfl
@[simp] theorem Cpu.loadX_cross (c : Cpu) (r : Byte) : (c.loadX r).cross = c.cross := rfl
@[simp] theorem Cpu.loadX_off (c : Cpu) (r : Byte) : (c.loadX r).off = c.off := rfl
@[simp] theorem Cpu.loadX_irqDelay (c : Cpu) (r : Byte) : (c.loadX r).irqDelay = c.irqDelay := rfl
@[simp] theorem Cpu.loadX_undocCount (c : Cpu) (r : Byte) : (c.loadX r).undocCount = c.undocCount := rfl

/-! `Cpu.loadY` -/

@[simp] theorem Cpu.loadY_a (c : Cpu) (r : Byte) : (c.loadY r).a = c.a := rfl
@[simp] theorem Cpu.loadY_x (c : Cpu) (r : Byte) : (c.loadY r).x = c.x := rfl
@[simp] theorem Cpu.loadY_s (c : Cpu) (r : Byte) : (c.loadY r).s = c.s := rfl
@[simp] theorem Cpu.loadY_pc (c : Cpu) (r : Byte) : (c.loadY r).pc = c.pc := rfl
@[simp] theorem Cpu.loadY_v (c : Cpu) (r : Byte) : (c.loadY r).v = c.v := rfl
@[simp] theorem Cpu.loadY_d (c : Cpu) (r : Byte) : (c.loadY r).d = c.d := rfl
@[simp] theorem Cpu.loadY_i (c : Cpu) (r : Byte) : (c.loadY r).i = c.i := rfl
@[simp] theorem Cpu.loadY_c (c : Cpu) (r : Byte) : (c.loadY r).c = c.c := rfl
@[simp] theorem Cpu.loadY_prog (c : Cpu) (r : Byte) : (c.loadY r).prog = c.prog := rfl
@[simp] theorem Cpu.loadY_t (c : Cpu) (r : Byte) : (c.loadY r).t = c.t := rfl
@[simp] theorem Cpu.loadY_next (c : Cpu) (r : Byte) : (c.loadY r).next = c.next := rfl
@[simp] theorem Cpu.loadY_adl (c : Cpu) (r : Byte) : (c.loadY r).adl = c.adl := rfl
@[simp] theorem Cpu.loadY_adh (c : Cpu) (r : Byte) : (c.loadY r).adh = c.adh := rfl
@[simp] theorem Cpu.loadY_ptr (c : Cpu) (r : Byte) : (c.loadY r).ptr = c.ptr := rfl
@[simp] theorem Cpu.loadY_data (c : Cpu) (r : Byte) : (c.loadY r).data = c.data := rfl
@[simp] theorem Cpu.loadY_ea (c : Cpu) (r : Byte) : (c.loadY r).ea = c.ea := rfl
@[simp] theorem Cpu.loadY_cross (c : Cpu) (r : Byte) : (c.loadY r).cross = c.cross := rfl
@[simp] theorem Cpu.loadY_off (c : Cpu) (r : Byte) : (c.loadY r).off = c.off := rfl
@[simp] theorem Cpu.loadY_irqDelay (c : Cpu) (r : Byte) : (c.loadY r).irqDelay = c.irqDelay := rfl
@[simp] theorem Cpu.loadY_undocCount (c : Cpu) (r : Byte) : (c.loadY r).undocCount = c.undocCount := rfl

/-! `Cpu.compare` -/

@[simp] theorem Cpu.compare_a (c : Cpu) (r m : Byte) : (c.compare r m).a = c.a := rfl
@[simp] theorem Cpu.compare_x (c : Cpu) (r m : Byte) : (c.compare r m).x = c.x := rfl
@[simp] theorem Cpu.compare_y (c : Cpu) (r m : Byte) : (c.compare r m).y = c.y := rfl
@[simp] theorem Cpu.compare_s (c : Cpu) (r m : Byte) : (c.compare r m).s = c.s := rfl
@[simp] theorem Cpu.compare_pc (c : Cpu) (r m : Byte) : (c.compare r m).pc = c.pc := rfl
@[simp] theorem Cpu.compare_v (c : Cpu) (r m : Byte) : (c.compare r m).v = c.v := rfl
@[simp] theorem Cpu.compare_d (c : Cpu) (r m : Byte) : (c.compare r m).d = c.d := rfl
@[simp] theorem Cpu.compare_i (c : Cpu) (r m : Byte) : (c.compare r m).i = c.i := rfl
@[simp] theorem Cpu.compare_prog (c : Cpu) (r m : Byte) : (c.compare r m).prog = c.prog := rfl
@[simp] theorem Cpu.compare_t (c : Cpu) (r m : Byte) : (c.compare r m).t = c.t := rfl
@[simp] theorem Cpu.compare_next (c : Cpu) (r m : Byte) : (c.compare r m).next = c.next := rfl
@[simp] theorem Cpu.compare_adl (c : Cpu) (r m : Byte) : (c.compare r m).adl = c.adl := rfl
@[simp] theorem Cpu.compare_adh (c : Cpu) (r m : Byte) : (c.compare r m).adh = c.adh := rfl
@[simp] theorem Cpu.compare_ptr (c : Cpu) (r m : Byte) : (c.compare r m).ptr = c.ptr := rfl
@[simp] theorem Cpu.compare_data (c : Cpu) (r m : Byte) : (c.compare r m).data = c.data := rfl
@[simp] theorem Cpu.compare_ea (c : Cpu) (r m : Byte) : (c.compare r m).ea = c.ea := rfl
@[simp] theorem Cpu.compare_cross (c : Cpu) (r m : Byte) : (c.compare r m).cross = c.cross := rfl
@[simp] theorem Cpu.compare_off (c : Cpu) (r m : Byte) : (c.compare r m).off = c.off := rfl
@[simp] theorem Cpu.compare_irqDelay (c : Cpu) (r m : Byte) : (c.compare r m).irqDelay = c.irqDelay := rfl
@[simp] theorem Cpu.compare_undocCount (c : Cpu) (r m : Byte) : (c.compare r m).undocCount = c.undocCount := rfl

/-! `Cpu.bitTest` -/

@[simp] theorem Cpu.bitTest_a (c : Cpu) (m : Byte) : (c.bitTest m).a = c.a := rfl
@[simp] theorem Cpu.bitTest_x (c : Cpu) (m : Byte) : (c.bitTest m).x = c.x := rfl
@[simp] theorem Cpu.bitTest_y (c : Cpu) (m : Byte) : (c.bitTest m).y = c.y := rfl
@[simp] theorem Cpu.bitTest_s (c : Cpu) (m : Byte) : (c.bitTest m).s = c.s := rfl
@[simp] theorem Cpu.bitTest_pc (c : Cpu) (m : Byte) : (c.bitTest m).pc = c.pc := rfl
@[simp] theorem Cpu.bitTest_d (c : Cpu) (m : Byte) : (c.bitTest m).d = c.d := rfl
@[simp] theorem Cpu.bitTest_i (c : Cpu) (m : Byte) : (c.bitTest m).i = c.i := rfl
@[simp] theorem Cpu.bitTest_c (c : Cpu) (m : Byte) : (c.bitTest m).c = c.c := rfl
@[simp] theorem Cpu.bitTest_prog (c : Cpu) (m : Byte) : (c.bitTest m).prog = c.prog := rfl
@[simp] theorem Cpu.bitTest_t (c : Cpu) (m : Byte) : (c.bitTest m).t = c.t := rfl
@[simp] theorem Cpu.bitTest_next (c : Cpu) (m : Byte) : (c.bitTest m).next = c.next := rfl
@[simp] theorem Cpu.bitTest_adl (c : Cpu) (m : Byte) : (c.bitTest m).adl = c.adl := rfl
@[simp] theorem Cpu.bitTest_adh (c : Cpu) (m : Byte) : (c.bitTest m).adh = c.adh := rfl
@[simp] theorem Cpu.bitTest_ptr (c : Cpu) (m : Byte) : (c.bitTest m).ptr = c.ptr := rfl
@[simp] theorem Cpu.bitTest_data (c : Cpu) (m : Byte) : (c.bitTest m).data = c.data := rfl
@[simp] theorem Cpu.bitTest_ea (c : Cpu) (m : Byte) : (c.bitTest m).ea = c.ea := rfl
@[simp] theorem Cpu.bitTest_cross (c : Cpu) (m : Byte) : (c.bitTest m).cross = c.cross := rfl
@[simp] theorem Cpu.bitTest_off (c : Cpu) (m : Byte) : (c.bitTest m).off = c.off := rfl
@[simp] theorem Cpu.bitTest_irqDelay (c : Cpu) (m : Byte) : (c.bitTest m).irqDelay = c.irqDelay := rfl
@[simp] theorem Cpu.bitTest_undocCount (c : Cpu) (m : Byte) : (c.bitTest m).undocCount = c.undocCount := rfl

/-! `Cpu.indexAdl` -/

@[simp] theorem Cpu.indexAdl_a (c : Cpu) (b : Byte) : (c.indexAdl b).a = c.a := rfl
@[simp] theorem Cpu.indexAdl_x (c : Cpu) (b : Byte) : (c.indexAdl b).x = c.x := rfl
@[simp] theorem Cpu.indexAdl_y (c : Cpu) (b : Byte) : (c.indexAdl b).y = c.y := rfl
@[simp] theorem Cpu.indexAdl_s (c : Cpu) (b : Byte) : (c.indexAdl b).s = c.s := rfl
@[simp] theorem Cpu.indexAdl_pc (c : Cpu) (b : Byte) : (c.indexAdl b).pc = c.pc := rfl
@[simp] theorem Cpu.indexAdl_n (c : Cpu) (b : Byte) : (c.indexAdl b).n = c.n := rfl
@[simp] theorem Cpu.indexAdl_v (c : Cpu) (b : Byte) : (c.indexAdl b).v = c.v := rfl
@[simp] theorem Cpu.indexAdl_d (c : Cpu) (b : Byte) : (c.indexAdl b).d = c.d := rfl
@[simp] theorem Cpu.indexAdl_i (c : Cpu) (b : Byte) : (c.indexAdl b).i = c.i := rfl
@[simp] theorem Cpu.indexAdl_z (c : Cpu) (b : Byte) : (c.indexAdl b).z = c.z := rfl
@[simp] theorem Cpu.indexAdl_c (c : Cpu) (b : Byte) : (c.indexAdl b).c = c.c := rfl
@[simp] theorem Cpu.indexAdl_prog (c : Cpu) (b : Byte) : (c.indexAdl b).prog = c.prog := rfl
@[simp] theorem Cpu.indexAdl_t (c : Cpu) (b : Byte) : (c.indexAdl b).t = c.t := rfl
@[simp] theorem Cpu.indexAdl_next (c : Cpu) (b : Byte) : (c.indexAdl b).next = c.next := rfl
@[simp] theorem Cpu.indexAdl_adh (c : Cpu) (b : Byte) : (c.indexAdl b).adh = c.adh := rfl
@[simp] theorem Cpu.indexAdl_ptr (c : Cpu) (b : Byte) : (c.indexAdl b).ptr = c.ptr := rfl
@[simp] theorem Cpu.indexAdl_data (c : Cpu) (b : Byte) : (c.indexAdl b).data = c.data := rfl
@[simp] theorem Cpu.indexAdl_ea (c : Cpu) (b : Byte) : (c.indexAdl b).ea = c.ea := rfl
@[simp] theorem Cpu.indexAdl_off (c : Cpu) (b : Byte) : (c.indexAdl b).off = c.off := rfl
@[simp] theorem Cpu.indexAdl_irqDelay (c : Cpu) (b : Byte) : (c.indexAdl b).irqDelay = c.irqDelay := rfl
@[simp] theorem Cpu.indexAdl_undocCount (c : Cpu) (b : Byte) : (c.indexAdl b).undocCount = c.undocCount := rfl

/-! `Cpu.jumpHigh` -/

@[simp] theorem Cpu.jumpHigh_a (c : Cpu) (b : Byte) : (c.jumpHigh b).a = c.a := rfl
@[simp] theorem Cpu.jumpHigh_x (c : Cpu) (b : Byte) : (c.jumpHigh b).x = c.x := rfl
@[simp] theorem Cpu.jumpHigh_y (c : Cpu) (b : Byte) : (c.jumpHigh b).y = c.y := rfl
@[simp] theorem Cpu.jumpHigh_s (c : Cpu) (b : Byte) : (c.jumpHigh b).s = c.s := rfl
@[simp] theorem Cpu.jumpHigh_n (c : Cpu) (b : Byte) : (c.jumpHigh b).n = c.n := rfl
@[simp] theorem Cpu.jumpHigh_v (c : Cpu) (b : Byte) : (c.jumpHigh b).v = c.v := rfl
@[simp] theorem Cpu.jumpHigh_d (c : Cpu) (b : Byte) : (c.jumpHigh b).d = c.d := rfl
@[simp] theorem Cpu.jumpHigh_i (c : Cpu) (b : Byte) : (c.jumpHigh b).i = c.i := rfl
@[simp] theorem Cpu.jumpHigh_z (c : Cpu) (b : Byte) : (c.jumpHigh b).z = c.z := rfl
@[simp] theorem Cpu.jumpHigh_c (c : Cpu) (b : Byte) : (c.jumpHigh b).c = c.c := rfl
@[simp] theorem Cpu.jumpHigh_prog (c : Cpu) (b : Byte) : (c.jumpHigh b).prog = c.prog := rfl
@[simp] theorem Cpu.jumpHigh_t (c : Cpu) (b : Byte) : (c.jumpHigh b).t = c.t := rfl
@[simp] theorem Cpu.jumpHigh_next (c : Cpu) (b : Byte) : (c.jumpHigh b).next = c.next := rfl
@[simp] theorem Cpu.jumpHigh_adl (c : Cpu) (b : Byte) : (c.jumpHigh b).adl = c.adl := rfl
@[simp] theorem Cpu.jumpHigh_ptr (c : Cpu) (b : Byte) : (c.jumpHigh b).ptr = c.ptr := rfl
@[simp] theorem Cpu.jumpHigh_data (c : Cpu) (b : Byte) : (c.jumpHigh b).data = c.data := rfl
@[simp] theorem Cpu.jumpHigh_ea (c : Cpu) (b : Byte) : (c.jumpHigh b).ea = c.ea := rfl
@[simp] theorem Cpu.jumpHigh_cross (c : Cpu) (b : Byte) : (c.jumpHigh b).cross = c.cross := rfl
@[simp] theorem Cpu.jumpHigh_off (c : Cpu) (b : Byte) : (c.jumpHigh b).off = c.off := rfl
@[simp] theorem Cpu.jumpHigh_irqDelay (c : Cpu) (b : Byte) : (c.jumpHigh b).irqDelay = c.irqDelay := rfl
@[simp] theorem Cpu.jumpHigh_undocCount (c : Cpu) (b : Byte) : (c.jumpHigh b).undocCount = c.undocCount := rfl

/-! What they set -/

@[simp] theorem Cpu.incPc_pc (c : Cpu) : (c.incPc).pc = c.pc + 1 := rfl
@[simp] theorem Cpu.setNZ_n (c : Cpu) (r : Byte) : (c.setNZ r).n = r.getLsbD 7 := rfl
@[simp] theorem Cpu.setNZ_z (c : Cpu) (r : Byte) : (c.setNZ r).z = (r == 0) := rfl
@[simp] theorem Cpu.setP_n (c : Cpu) (p : Byte) : (c.setP p).n = p.getLsbD 7 := rfl
@[simp] theorem Cpu.setP_v (c : Cpu) (p : Byte) : (c.setP p).v = p.getLsbD 6 := rfl
@[simp] theorem Cpu.setP_d (c : Cpu) (p : Byte) : (c.setP p).d = p.getLsbD 3 := rfl
@[simp] theorem Cpu.setP_i (c : Cpu) (p : Byte) : (c.setP p).i = p.getLsbD 2 := rfl
@[simp] theorem Cpu.setP_z (c : Cpu) (p : Byte) : (c.setP p).z = p.getLsbD 1 := rfl
@[simp] theorem Cpu.setP_c (c : Cpu) (p : Byte) : (c.setP p).c = p.getLsbD 0 := rfl
@[simp] theorem Cpu.loadA_a (c : Cpu) (r : Byte) : (c.loadA r).a = r := rfl
@[simp] theorem Cpu.loadA_n (c : Cpu) (r : Byte) : (c.loadA r).n = r.getLsbD 7 := rfl
@[simp] theorem Cpu.loadA_z (c : Cpu) (r : Byte) : (c.loadA r).z = (r == 0) := rfl
@[simp] theorem Cpu.loadX_x (c : Cpu) (r : Byte) : (c.loadX r).x = r := rfl
@[simp] theorem Cpu.loadX_n (c : Cpu) (r : Byte) : (c.loadX r).n = r.getLsbD 7 := rfl
@[simp] theorem Cpu.loadX_z (c : Cpu) (r : Byte) : (c.loadX r).z = (r == 0) := rfl
@[simp] theorem Cpu.loadY_y (c : Cpu) (r : Byte) : (c.loadY r).y = r := rfl
@[simp] theorem Cpu.loadY_n (c : Cpu) (r : Byte) : (c.loadY r).n = r.getLsbD 7 := rfl
@[simp] theorem Cpu.loadY_z (c : Cpu) (r : Byte) : (c.loadY r).z = (r == 0) := rfl
@[simp] theorem Cpu.compare_n (c : Cpu) (r m : Byte) : (c.compare r m).n = (r - m).getLsbD 7 := rfl
@[simp] theorem Cpu.compare_z (c : Cpu) (r m : Byte) : (c.compare r m).z = ((r - m) == 0) := rfl
@[simp] theorem Cpu.compare_c (c : Cpu) (r m : Byte) : (c.compare r m).c = decide (m.toNat ≤ r.toNat) := rfl
@[simp] theorem Cpu.bitTest_n (c : Cpu) (m : Byte) : (c.bitTest m).n = m.getLsbD 7 := rfl
@[simp] theorem Cpu.bitTest_v (c : Cpu) (m : Byte) : (c.bitTest m).v = m.getLsbD 6 := rfl
@[simp] theorem Cpu.bitTest_z (c : Cpu) (m : Byte) : (c.bitTest m).z = ((c.a &&& m) == 0) := rfl
@[simp] theorem Cpu.indexAdl_adl (c : Cpu) (b : Byte) : (c.indexAdl b).adl = c.adl + b := rfl
@[simp] theorem Cpu.indexAdl_cross (c : Cpu) (b : Byte) : (c.indexAdl b).cross = decide (c.adl.toNat + b.toNat > 255) := rfl
@[simp] theorem Cpu.jumpHigh_adh (c : Cpu) (b : Byte) : (c.jumpHigh b).adh = b := rfl
@[simp] theorem Cpu.jumpHigh_pc (c : Cpu) (b : Byte) : (c.jumpHigh b).pc = mk16 b c.adl := rfl

end Sys2Proof.Machine
end

