-- ==== Sys2Proof/Laws/Fields.lean ====
section
/-! SUPPORT. One lemma per field per update of the whole state: what each shared operation leaves as it was. -/

namespace Sys2Proof.Machine

open Sys2Proof

/-- The machine with another CPU: every cycle of the CPU has this shape. -/
def State.withCpu (s : State) (c : Cpu) : State := { s with cpu := c }

/-! `State.withCpu` -/

@[simp] theorem State.withCpu_cpu (s : State) (c : Cpu) : (s.withCpu c).cpu = c := rfl
@[simp] theorem State.withCpu_lines (s : State) (c : Cpu) : (s.withCpu c).lines = s.lines := rfl
@[simp] theorem State.withCpu_traps (s : State) (c : Cpu) : (s.withCpu c).traps = s.traps := rfl
@[simp] theorem State.withCpu_mem (s : State) (c : Cpu) : (s.withCpu c).mem = s.mem := rfl
@[simp] theorem State.withCpu_maps (s : State) (c : Cpu) : (s.withCpu c).maps = s.maps := rfl
@[simp] theorem State.withCpu_via1 (s : State) (c : Cpu) : (s.withCpu c).via1 = s.via1 := rfl
@[simp] theorem State.withCpu_via2 (s : State) (c : Cpu) : (s.withCpu c).via2 = s.via2 := rfl
@[simp] theorem State.withCpu_vic (s : State) (c : Cpu) : (s.withCpu c).vic = s.vic := rfl
@[simp] theorem State.withCpu_cfg (s : State) (c : Cpu) : (s.withCpu c).cfg = s.cfg := rfl
@[simp] theorem State.withCpu_inputs (s : State) (c : Cpu) : (s.withCpu c).inputs = s.inputs := rfl
@[simp] theorem State.withCpu_script (s : State) (c : Cpu) : (s.withCpu c).script = s.script := rfl
@[simp] theorem State.withCpu_hostCalls (s : State) (c : Cpu) : (s.withCpu c).hostCalls = s.hostCalls := rfl

/-! `advance` -/

@[simp] theorem advance_lines (s : State) : (advance s).lines = s.lines := rfl
@[simp] theorem advance_traps (s : State) : (advance s).traps = s.traps := rfl
@[simp] theorem advance_mem (s : State) : (advance s).mem = s.mem := rfl
@[simp] theorem advance_maps (s : State) : (advance s).maps = s.maps := rfl
@[simp] theorem advance_via1 (s : State) : (advance s).via1 = s.via1 := rfl
@[simp] theorem advance_via2 (s : State) : (advance s).via2 = s.via2 := rfl
@[simp] theorem advance_vic (s : State) : (advance s).vic = s.vic := rfl
@[simp] theorem advance_cfg (s : State) : (advance s).cfg = s.cfg := rfl
@[simp] theorem advance_inputs (s : State) : (advance s).inputs = s.inputs := rfl
@[simp] theorem advance_script (s : State) : (advance s).script = s.script := rfl
@[simp] theorem advance_hostCalls (s : State) : (advance s).hostCalls = s.hostCalls := rfl
@[simp] theorem advance_cpu (s : State) : (advance s).cpu = { s.cpu with t := s.cpu.t + 1 } := rfl

/-! `endInstr` -/

@[simp] theorem endInstr_traps (s : State) : (endInstr s).traps = s.traps := rfl
@[simp] theorem endInstr_mem (s : State) : (endInstr s).mem = s.mem := rfl
@[simp] theorem endInstr_maps (s : State) : (endInstr s).maps = s.maps := rfl
@[simp] theorem endInstr_via1 (s : State) : (endInstr s).via1 = s.via1 := rfl
@[simp] theorem endInstr_via2 (s : State) : (endInstr s).via2 = s.via2 := rfl
@[simp] theorem endInstr_vic (s : State) : (endInstr s).vic = s.vic := rfl
@[simp] theorem endInstr_cfg (s : State) : (endInstr s).cfg = s.cfg := rfl
@[simp] theorem endInstr_inputs (s : State) : (endInstr s).inputs = s.inputs := rfl
@[simp] theorem endInstr_script (s : State) : (endInstr s).script = s.script := rfl
@[simp] theorem endInstr_hostCalls (s : State) : (endInstr s).hostCalls = s.hostCalls := rfl
@[simp] theorem endInstr_cpu (s : State) : (endInstr s).cpu = { s.cpu with next := boundaryNext s, irqDelay := false, prog := .none, t := 0 } := rfl
@[simp] theorem endInstr_lines (s : State) : (endInstr s).lines = boundaryLines s := rfl

/-! `endSequence` -/

@[simp] theorem endSequence_lines (s : State) : (endSequence s).lines = s.lines := rfl
@[simp] theorem endSequence_traps (s : State) : (endSequence s).traps = s.traps := rfl
@[simp] theorem endSequence_mem (s : State) : (endSequence s).mem = s.mem := rfl
@[simp] theorem endSequence_maps (s : State) : (endSequence s).maps = s.maps := rfl
@[simp] theorem endSequence_via1 (s : State) : (endSequence s).via1 = s.via1 := rfl
@[simp] theorem endSequence_via2 (s : State) : (endSequence s).via2 = s.via2 := rfl
@[simp] theorem endSequence_vic (s : State) : (endSequence s).vic = s.vic := rfl
@[simp] theorem endSequence_cfg (s : State) : (endSequence s).cfg = s.cfg := rfl
@[simp] theorem endSequence_inputs (s : State) : (endSequence s).inputs = s.inputs := rfl
@[simp] theorem endSequence_script (s : State) : (endSequence s).script = s.script := rfl
@[simp] theorem endSequence_hostCalls (s : State) : (endSequence s).hostCalls = s.hostCalls := rfl
@[simp] theorem endSequence_cpu (s : State) : (endSequence s).cpu = { s.cpu with next := .fetch, prog := .none, t := 0 } := rfl

/-! `drawInputs` -/

@[simp] theorem drawInputs_cpu (s : State) : (drawInputs s).cpu = s.cpu := by unfold drawInputs; split <;> rfl
@[simp] theorem drawInputs_lines (s : State) : (drawInputs s).lines = s.lines := by unfold drawInputs; split <;> rfl
@[simp] theorem drawInputs_traps (s : State) : (drawInputs s).traps = s.traps := by unfold drawInputs; split <;> rfl
@[simp] theorem drawInputs_mem (s : State) : (drawInputs s).mem = s.mem := by unfold drawInputs; split <;> rfl
@[simp] theorem drawInputs_maps (s : State) : (drawInputs s).maps = s.maps := by unfold drawInputs; split <;> rfl
@[simp] theorem drawInputs_via1 (s : State) : (drawInputs s).via1 = s.via1 := by unfold drawInputs; split <;> rfl
@[simp] theorem drawInputs_via2 (s : State) : (drawInputs s).via2 = s.via2 := by unfold drawInputs; split <;> rfl
@[simp] theorem drawInputs_vic (s : State) : (drawInputs s).vic = s.vic := by unfold drawInputs; split <;> rfl
@[simp] theorem drawInputs_cfg (s : State) : (drawInputs s).cfg = s.cfg := by unfold drawInputs; split <;> rfl
@[simp] theorem drawInputs_hostCalls (s : State) : (drawInputs s).hostCalls = s.hostCalls := by unfold drawInputs; split <;> rfl

/-! `vicCycle` -/

@[simp] theorem vicCycle_cpu (s : State) : (vicCycle s).cpu = s.cpu := rfl
@[simp] theorem vicCycle_lines (s : State) : (vicCycle s).lines = s.lines := rfl
@[simp] theorem vicCycle_traps (s : State) : (vicCycle s).traps = s.traps := rfl
@[simp] theorem vicCycle_mem (s : State) : (vicCycle s).mem = s.mem := rfl
@[simp] theorem vicCycle_maps (s : State) : (vicCycle s).maps = s.maps := rfl
@[simp] theorem vicCycle_via1 (s : State) : (vicCycle s).via1 = s.via1 := rfl
@[simp] theorem vicCycle_via2 (s : State) : (vicCycle s).via2 = s.via2 := rfl
@[simp] theorem vicCycle_cfg (s : State) : (vicCycle s).cfg = s.cfg := rfl
@[simp] theorem vicCycle_inputs (s : State) : (vicCycle s).inputs = s.inputs := rfl
@[simp] theorem vicCycle_script (s : State) : (vicCycle s).script = s.script := rfl
@[simp] theorem vicCycle_hostCalls (s : State) : (vicCycle s).hostCalls = s.hostCalls := rfl
@[simp] theorem vicCycle_vic (s : State) : (vicCycle s).vic = s.vic.cycle s.cfg s.mem := rfl

/-! `State.setVia` -/

@[simp] theorem State.setVia_cpu (s : State) (id : ViaId) (v : Via) : (s.setVia id v).cpu = s.cpu := by cases id <;> rfl
@[simp] theorem State.setVia_lines (s : State) (id : ViaId) (v : Via) : (s.setVia id v).lines = s.lines := by cases id <;> rfl
@[simp] theorem State.setVia_traps (s : State) (id : ViaId) (v : Via) : (s.setVia id v).traps = s.traps := by cases id <;> rfl
@[simp] theorem State.setVia_mem (s : State) (id : ViaId) (v : Via) : (s.setVia id v).mem = s.mem := by cases id <;> rfl
@[simp] theorem State.setVia_maps (s : State) (id : ViaId) (v : Via) : (s.setVia id v).maps = s.maps := by cases id <;> rfl
@[simp] theorem State.setVia_vic (s : State) (id : ViaId) (v : Via) : (s.setVia id v).vic = s.vic := by cases id <;> rfl
@[simp] theorem State.setVia_cfg (s : State) (id : ViaId) (v : Via) : (s.setVia id v).cfg = s.cfg := by cases id <;> rfl
@[simp] theorem State.setVia_inputs (s : State) (id : ViaId) (v : Via) : (s.setVia id v).inputs = s.inputs := by cases id <;> rfl
@[simp] theorem State.setVia_script (s : State) (id : ViaId) (v : Via) : (s.setVia id v).script = s.script := by cases id <;> rfl
@[simp] theorem State.setVia_hostCalls (s : State) (id : ViaId) (v : Via) : (s.setVia id v).hostCalls = s.hostCalls := by cases id <;> rfl

/-! `State.updateVia` -/

@[simp] theorem State.updateVia_cpu (s : State) (id : ViaId) (v : Via) : (s.updateVia id v).cpu = s.cpu := by cases id <;> rfl
@[simp] theorem State.updateVia_traps (s : State) (id : ViaId) (v : Via) : (s.updateVia id v).traps = s.traps := by cases id <;> rfl
@[simp] theorem State.updateVia_mem (s : State) (id : ViaId) (v : Via) : (s.updateVia id v).mem = s.mem := by cases id <;> rfl
@[simp] theorem State.updateVia_maps (s : State) (id : ViaId) (v : Via) : (s.updateVia id v).maps = s.maps := by cases id <;> rfl
@[simp] theorem State.updateVia_vic (s : State) (id : ViaId) (v : Via) : (s.updateVia id v).vic = s.vic := by cases id <;> rfl
@[simp] theorem State.updateVia_cfg (s : State) (id : ViaId) (v : Via) : (s.updateVia id v).cfg = s.cfg := by cases id <;> rfl
@[simp] theorem State.updateVia_inputs (s : State) (id : ViaId) (v : Via) : (s.updateVia id v).inputs = s.inputs := by cases id <;> rfl
@[simp] theorem State.updateVia_script (s : State) (id : ViaId) (v : Via) : (s.updateVia id v).script = s.script := by cases id <;> rfl
@[simp] theorem State.updateVia_hostCalls (s : State) (id : ViaId) (v : Via) : (s.updateVia id v).hostCalls = s.hostCalls := by cases id <;> rfl
@[simp] theorem State.updateVia_via1_same (s : State) (v : Via) : (s.updateVia .via1 v).via1 = v := rfl
@[simp] theorem State.updateVia_via1_other (s : State) (v : Via) : (s.updateVia .via2 v).via1 = s.via1 := rfl
@[simp] theorem State.updateVia_via2_same (s : State) (v : Via) : (s.updateVia .via2 v).via2 = v := rfl
@[simp] theorem State.updateVia_via2_other (s : State) (v : Via) : (s.updateVia .via1 v).via2 = s.via2 := rfl

/-! `viaCycle` -/

@[simp] theorem viaCycle_cpu (s : State) (id : ViaId) : (viaCycle id s).cpu = s.cpu := by cases id <;> rfl
@[simp] theorem viaCycle_traps (s : State) (id : ViaId) : (viaCycle id s).traps = s.traps := by cases id <;> rfl
@[simp] theorem viaCycle_mem (s : State) (id : ViaId) : (viaCycle id s).mem = s.mem := by cases id <;> rfl
@[simp] theorem viaCycle_maps (s : State) (id : ViaId) : (viaCycle id s).maps = s.maps := by cases id <;> rfl
@[simp] theorem viaCycle_vic (s : State) (id : ViaId) : (viaCycle id s).vic = s.vic := by cases id <;> rfl
@[simp] theorem viaCycle_cfg (s : State) (id : ViaId) : (viaCycle id s).cfg = s.cfg := by cases id <;> rfl
@[simp] theorem viaCycle_inputs (s : State) (id : ViaId) : (viaCycle id s).inputs = s.inputs := by cases id <;> rfl
@[simp] theorem viaCycle_script (s : State) (id : ViaId) : (viaCycle id s).script = s.script := by cases id <;> rfl
@[simp] theorem viaCycle_hostCalls (s : State) (id : ViaId) : (viaCycle id s).hostCalls = s.hostCalls := by cases id <;> rfl

/-! `viaRead` -/

@[simp] theorem viaRead_cpu (s : State) (id : ViaId) (r : BitVec 4) : ((viaRead id r s).2).cpu = s.cpu := by cases id <;> rfl
@[simp] theorem viaRead_traps (s : State) (id : ViaId) (r : BitVec 4) : ((viaRead id r s).2).traps = s.traps := by cases id <;> rfl
@[simp] theorem viaRead_mem (s : State) (id : ViaId) (r : BitVec 4) : ((viaRead id r s).2).mem = s.mem := by cases id <;> rfl
@[simp] theorem viaRead_maps (s : State) (id : ViaId) (r : BitVec 4) : ((viaRead id r s).2).maps = s.maps := by cases id <;> rfl
@[simp] theorem viaRead_vic (s : State) (id : ViaId) (r : BitVec 4) : ((viaRead id r s).2).vic = s.vic := by cases id <;> rfl
@[simp] theorem viaRead_cfg (s : State) (id : ViaId) (r : BitVec 4) : ((viaRead id r s).2).cfg = s.cfg := by cases id <;> rfl
@[simp] theorem viaRead_inputs (s : State) (id : ViaId) (r : BitVec 4) : ((viaRead id r s).2).inputs = s.inputs := by cases id <;> rfl
@[simp] theorem viaRead_script (s : State) (id : ViaId) (r : BitVec 4) : ((viaRead id r s).2).script = s.script := by cases id <;> rfl
@[simp] theorem viaRead_hostCalls (s : State) (id : ViaId) (r : BitVec 4) : ((viaRead id r s).2).hostCalls = s.hostCalls := by cases id <;> rfl

/-! `viaWrite` -/

@[simp] theorem viaWrite_cpu (s : State) (id : ViaId) (r : BitVec 4) (x : Byte) : (viaWrite id r x s).cpu = s.cpu := by cases id <;> rfl
@[simp] theorem viaWrite_traps (s : State) (id : ViaId) (r : BitVec 4) (x : Byte) : (viaWrite id r x s).traps = s.traps := by cases id <;> rfl
@[simp] theorem viaWrite_mem (s : State) (id : ViaId) (r : BitVec 4) (x : Byte) : (viaWrite id r x s).mem = s.mem := by cases id <;> rfl
@[simp] theorem viaWrite_maps (s : State) (id : ViaId) (r : BitVec 4) (x : Byte) : (viaWrite id r x s).maps = s.maps := by cases id <;> rfl
@[simp] theorem viaWrite_vic (s : State) (id : ViaId) (r : BitVec 4) (x : Byte) : (viaWrite id r x s).vic = s.vic := by cases id <;> rfl
@[simp] theorem viaWrite_cfg (s : State) (id : ViaId) (r : BitVec 4) (x : Byte) : (viaWrite id r x s).cfg = s.cfg := by cases id <;> rfl
@[simp] theorem viaWrite_inputs (s : State) (id : ViaId) (r : BitVec 4) (x : Byte) : (viaWrite id r x s).inputs = s.inputs := by cases id <;> rfl
@[simp] theorem viaWrite_script (s : State) (id : ViaId) (r : BitVec 4) (x : Byte) : (viaWrite id r x s).script = s.script := by cases id <;> rfl

/-! `vicWrite` -/

@[simp] theorem vicWrite_cpu (s : State) (r : BitVec 4) (x : Byte) : (vicWrite r x s).cpu = s.cpu := rfl
@[simp] theorem vicWrite_lines (s : State) (r : BitVec 4) (x : Byte) : (vicWrite r x s).lines = s.lines := rfl
@[simp] theorem vicWrite_traps (s : State) (r : BitVec 4) (x : Byte) : (vicWrite r x s).traps = s.traps := rfl
@[simp] theorem vicWrite_mem (s : State) (r : BitVec 4) (x : Byte) : (vicWrite r x s).mem = s.mem := rfl
@[simp] theorem vicWrite_maps (s : State) (r : BitVec 4) (x : Byte) : (vicWrite r x s).maps = s.maps := rfl
@[simp] theorem vicWrite_via1 (s : State) (r : BitVec 4) (x : Byte) : (vicWrite r x s).via1 = s.via1 := rfl
@[simp] theorem vicWrite_via2 (s : State) (r : BitVec 4) (x : Byte) : (vicWrite r x s).via2 = s.via2 := rfl
@[simp] theorem vicWrite_cfg (s : State) (r : BitVec 4) (x : Byte) : (vicWrite r x s).cfg = s.cfg := rfl
@[simp] theorem vicWrite_inputs (s : State) (r : BitVec 4) (x : Byte) : (vicWrite r x s).inputs = s.inputs := rfl
@[simp] theorem vicWrite_script (s : State) (r : BitVec 4) (x : Byte) : (vicWrite r x s).script = s.script := rfl
@[simp] theorem vicWrite_hostCalls (s : State) (r : BitVec 4) (x : Byte) : (vicWrite r x s).hostCalls = s.hostCalls := rfl
@[simp] theorem vicWrite_vic (s : State) (r : BitVec 4) (x : Byte) : (vicWrite r x s).vic = s.vic.write r x := rfl

/-! `forceWrite` -/

@[simp] theorem forceWrite_cpu (s : State) (a : Addr) (v : Byte) : (forceWrite a v s).cpu = s.cpu := rfl
@[simp] theorem forceWrite_lines (s : State) (a : Addr) (v : Byte) : (forceWrite a v s).lines = s.lines := rfl
@[simp] theorem forceWrite_traps (s : State) (a : Addr) (v : Byte) : (forceWrite a v s).traps = s.traps := rfl
@[simp] theorem forceWrite_maps (s : State) (a : Addr) (v : Byte) : (forceWrite a v s).maps = s.maps := rfl
@[simp] theorem forceWrite_via1 (s : State) (a : Addr) (v : Byte) : (forceWrite a v s).via1 = s.via1 := rfl
@[simp] theorem forceWrite_via2 (s : State) (a : Addr) (v : Byte) : (forceWrite a v s).via2 = s.via2 := rfl
@[simp] theorem forceWrite_vic (s : State) (a : Addr) (v : Byte) : (forceWrite a v s).vic = s.vic := rfl
@[simp] theorem forceWrite_cfg (s : State) (a : Addr) (v : Byte) : (forceWrite a v s).cfg = s.cfg := rfl
@[simp] theorem forceWrite_inputs (s : State) (a : Addr) (v : Byte) : (forceWrite a v s).inputs = s.inputs := rfl
@[simp] theorem forceWrite_script (s : State) (a : Addr) (v : Byte) : (forceWrite a v s).script = s.script := rfl
@[simp] theorem forceWrite_hostCalls (s : State) (a : Addr) (v : Byte) : (forceWrite a v s).hostCalls = s.hostCalls := rfl
@[simp] theorem forceWrite_mem (s : State) (a : Addr) (v : Byte) : (forceWrite a v s).mem = rawWrite s.mem a v := rfl

/-! `beforeCpu` -/

@[simp] theorem beforeCpu_cpu (s : State) : (beforeCpu s).cpu = s.cpu := by simp [beforeCpu]
@[simp] theorem beforeCpu_lines (s : State) : (beforeCpu s).lines = s.lines := by simp [beforeCpu]
@[simp] theorem beforeCpu_traps (s : State) : (beforeCpu s).traps = s.traps := by simp [beforeCpu]
@[simp] theorem beforeCpu_mem (s : State) : (beforeCpu s).mem = s.mem := by simp [beforeCpu]
@[simp] theorem beforeCpu_maps (s : State) : (beforeCpu s).maps = s.maps := by simp [beforeCpu]
@[simp] theorem beforeCpu_via1 (s : State) : (beforeCpu s).via1 = s.via1 := by simp [beforeCpu]
@[simp] theorem beforeCpu_via2 (s : State) : (beforeCpu s).via2 = s.via2 := by simp [beforeCpu]
@[simp] theorem beforeCpu_cfg (s : State) : (beforeCpu s).cfg = s.cfg := by simp [beforeCpu]
@[simp] theorem beforeCpu_hostCalls (s : State) : (beforeCpu s).hostCalls = s.hostCalls := by simp [beforeCpu]

/-! `afterCpu` -/

@[simp] theorem afterCpu_cpu (s : State) : (afterCpu s).cpu = s.cpu := by simp [afterCpu]
@[simp] theorem afterCpu_traps (s : State) : (afterCpu s).traps = s.traps := by simp [afterCpu]
@[simp] theorem afterCpu_mem (s : State) : (afterCpu s).mem = s.mem := by simp [afterCpu]
@[simp] theorem afterCpu_maps (s : State) : (afterCpu s).maps = s.maps := by simp [afterCpu]
@[simp] theorem afterCpu_vic (s : State) : (afterCpu s).vic = s.vic := by simp [afterCpu]
@[simp] theorem afterCpu_cfg (s : State) : (afterCpu s).cfg = s.cfg := by simp [afterCpu]
@[simp] theorem afterCpu_inputs (s : State) : (afterCpu s).inputs = s.inputs := by simp [afterCpu]
@[simp] theorem afterCpu_script (s : State) : (afterCpu s).script = s.script := by simp [afterCpu]
@[simp] theorem afterCpu_hostCalls (s : State) : (afterCpu s).hostCalls = s.hostCalls := by simp [afterCpu]

/-! `idleTick` -/

@[simp] theorem idleTick_cpu (s : State) : (idleTick s).cpu = s.cpu := by simp [idleTick]
@[simp] theorem idleTick_traps (s : State) : (idleTick s).traps = s.traps := by simp [idleTick]
@[simp] theorem idleTick_mem (s : State) : (idleTick s).mem = s.mem := by simp [idleTick]
@[simp] theorem idleTick_maps (s : State) : (idleTick s).maps = s.maps := by simp [idleTick]
@[simp] theorem idleTick_cfg (s : State) : (idleTick s).cfg = s.cfg := by simp [idleTick]
@[simp] theorem idleTick_hostCalls (s : State) : (idleTick s).hostCalls = s.hostCalls := by simp [idleTick]

end Sys2Proof.Machine
end

