-- ==== Sys2Proof/Laws/Memory.lean ====
section
/-! SUPPORT. Laws of the sparse arrays: read after write, the frame of a write, and the canonical form. -/

namespace Sys2Proof.Machine

open Sys2Proof

/-- Every key of a sparse array is above `b`. -/
def Sparse.above {w : Nat} (b : Nat) (m : Sparse w) : Prop := ∀ e ∈ m, b < e.1

theorem Sparse.wf_cons {w : Nat} {size k : Nat} {v : BitVec w} {rest : Sparse w} :
    Sparse.wf size ((k, v) :: rest) = true ↔
      v ≠ 0 ∧ k < size ∧ Sparse.above k rest ∧ Sparse.wf size rest = true := by
  induction rest generalizing k v with
  | nil => simp [Sparse.wf, Sparse.above]
  | cons e rest ih =>
    obtain ⟨k', v'⟩ := e
    rw [Sparse.wf]
    simp only [Bool.and_eq_true, bne_iff_ne, ne_eq, decide_eq_true_eq, and_assoc]
    constructor
    · rintro ⟨hv, hk, hlt, hw⟩
      refine ⟨hv, hk, ?_, hw⟩
      intro e he
      rcases List.mem_cons.mp he with rfl | he
      · exact hlt
      · exact Nat.lt_trans hlt ((ih.mp hw).2.2.1 e he)
    · rintro ⟨hv, hk, hab, hw⟩
      exact ⟨hv, hk, hab (k', v') (by simp), hw⟩

theorem Sparse.read_above {w : Nat} {b : Nat} {m : Sparse w} (h : Sparse.above b m) {a : Nat} (ha : a ≤ b) :
    Sparse.read m a = 0 := by
  induction m with
  | nil => rfl
  | cons e rest ih =>
    obtain ⟨k, v⟩ := e
    have hk : b < k := h (k, v) (by simp)
    have : k ≠ a := by omega
    simp only [Sparse.read, this, if_false]
    exact ih (fun e he => h e (by simp [he]))

/-- A cell that is not the one written reads as before, in any array. -/
theorem Sparse.read_write_other {w : Nat} (m : Sparse w) {a b : Nat} (v : BitVec w) (h : b ≠ a) :
    Sparse.read (Sparse.write m a v) b = Sparse.read m b := by
  induction m with
  | nil =>
    simp only [Sparse.write]
    split <;> simp [Sparse.read, Ne.symm h]
  | cons e rest ih =>
    obtain ⟨k, x⟩ := e
    simp only [Sparse.write]
    split
    · split <;> simp [Sparse.read, Ne.symm h]
    · split
      · rename_i hk
        subst hk
        split <;> simp [Sparse.read, Ne.symm h]
      · simp [Sparse.read, ih]

/-- A cell written reads as the value written. -/
theorem Sparse.read_write_same {w : Nat} {size : Nat} {m : Sparse w} (hw : Sparse.wf size m = true) (a : Nat)
    (v : BitVec w) : Sparse.read (Sparse.write m a v) a = v := by
  induction m with
  | nil =>
    simp only [Sparse.write]
    split
    · rename_i hv; simp [Sparse.read, hv]
    · simp [Sparse.read]
  | cons e rest ih =>
    obtain ⟨k, x⟩ := e
    obtain ⟨-, -, hab, hr⟩ := Sparse.wf_cons.mp hw
    simp only [Sparse.write]
    split
    · rename_i hlt
      split
      · rename_i hv
        have : k ≠ a := by omega
        simp [Sparse.read, this, Sparse.read_above hab (Nat.le_of_lt hlt), hv]
      · simp [Sparse.read]
    · split
      · rename_i hk
        subst hk
        split
        · rename_i hv; simp [Sparse.read_above hab (Nat.le_refl _), hv]
        · simp [Sparse.read]
      · rename_i h1 h2
        have : k ≠ a := by omega
        simp [Sparse.read, this, ih hr]

theorem Sparse.above_write {w : Nat} {b : Nat} {m : Sparse w} (h : Sparse.above b m) {a : Nat} (ha : b < a)
    (v : BitVec w) : Sparse.above b (Sparse.write m a v) := by
  induction m with
  | nil =>
    simp only [Sparse.write]
    split <;> simp [Sparse.above, ha]
  | cons e rest ih =>
    obtain ⟨k, x⟩ := e
    have hk : b < k := h (k, x) (by simp)
    have hrest : Sparse.above b rest := fun e he => h e (by simp [he])
    simp only [Sparse.write]
    split
    · split
      · exact h
      · intro e he
        rcases List.mem_cons.mp he with rfl | he
        · exact ha
        · exact h e he
    · split
      · split
        · exact hrest
        · intro e he
          rcases List.mem_cons.mp he with rfl | he
          · exact ha
          · exact hrest e he
      · intro e he
        rcases List.mem_cons.mp he with rfl | he
        · exact hk
        · exact ih hrest e he

/-- A write inside the array keeps the canonical form. -/
theorem Sparse.write_wf {w : Nat} {size : Nat} {m : Sparse w} (hw : Sparse.wf size m = true) {a : Nat} (ha : a < size)
    (v : BitVec w) : Sparse.wf size (Sparse.write m a v) = true := by
  induction m with
  | nil =>
    simp only [Sparse.write]
    split
    · rfl
    · rename_i hv
      exact Sparse.wf_cons.mpr ⟨hv, ha, by simp [Sparse.above], rfl⟩
  | cons e rest ih =>
    obtain ⟨k, x⟩ := e
    obtain ⟨hx, hk, hab, hr⟩ := Sparse.wf_cons.mp hw
    simp only [Sparse.write]
    split
    · rename_i hlt
      split
      · exact hw
      · rename_i hv
        refine Sparse.wf_cons.mpr ⟨hv, ha, ?_, hw⟩
        intro e he
        rcases List.mem_cons.mp he with rfl | he
        · exact hlt
        · exact Nat.lt_trans hlt (hab e he)
    · split
      · rename_i hk'
        subst hk'
        split
        · exact hr
        · rename_i hv
          exact Sparse.wf_cons.mpr ⟨hv, ha, hab, hr⟩
      · rename_i h1 h2
        exact Sparse.wf_cons.mpr ⟨hx, hk, Sparse.above_write hab (by omega) v, ih hr⟩

/-- Writing a cell the value it holds changes nothing. -/
theorem Sparse.write_read {w : Nat} {size : Nat} {m : Sparse w} (hw : Sparse.wf size m = true) (a : Nat) :
    Sparse.write m a (Sparse.read m a) = m := by
  induction m with
  | nil => simp [Sparse.read, Sparse.write]
  | cons e rest ih =>
    obtain ⟨k, x⟩ := e
    obtain ⟨hx, -, hab, hr⟩ := Sparse.wf_cons.mp hw
    by_cases hka : k = a
    · subst hka
      simp only [Sparse.write, Sparse.read, Nat.lt_irrefl, if_true, if_false]
      rw [if_neg hx]
    · simp only [Sparse.write, Sparse.read, hka, if_false]
      by_cases hlt : a < k
      · have hz := Sparse.read_above hab (Nat.le_of_lt hlt)
        rw [if_pos hlt, if_pos hz]
      · rw [if_neg hlt, if_neg (Ne.symm hka), ih hr]

theorem Sparse.writeRun_wf {w : Nat} {size : Nat} {m : Sparse w} (hw : Sparse.wf size m = true) {a : Nat}
    {vs : List (BitVec w)} (ha : a + vs.length ≤ size) : Sparse.wf size (Sparse.writeRun m a vs) = true := by
  induction vs generalizing m a with
  | nil => exact hw
  | cons v vs ih =>
    simp only [List.length_cons] at ha
    exact ih (Sparse.write_wf hw (by omega) v) (by omega)

/-- What a run of writes does to a cell. -/
theorem Sparse.read_writeRun {w : Nat} {size : Nat} {m : Sparse w} (hw : Sparse.wf size m = true) {a : Nat}
    {vs : List (BitVec w)} (ha : a + vs.length ≤ size) (b : Nat) :
    Sparse.read (Sparse.writeRun m a vs) b = if a ≤ b ∧ b < a + vs.length then vs.getD (b - a) 0 else Sparse.read m b := by
  induction vs generalizing m a with
  | nil => rw [if_neg (by simp only [List.length_nil]; omega)]; rfl
  | cons v vs ih =>
    simp only [List.length_cons] at ha ⊢
    rw [Sparse.writeRun, ih (Sparse.write_wf hw (by omega) v) (by omega)]
    by_cases hb : b = a
    · subst hb
      rw [if_neg (by omega), if_pos (by omega), Sparse.read_write_same hw, Nat.sub_self, List.getD_cons_zero]
    · rw [Sparse.read_write_other m v hb]
      by_cases hc : a + 1 ≤ b ∧ b < a + 1 + vs.length
      · rw [if_pos hc, if_pos (by omega), show b - a = (b - (a + 1)) + 1 by omega, List.getD_cons_succ]
      · rw [if_neg hc, if_neg (by omega)]

/-! ### The 64 KiB array -/

theorem rawRead_rawWrite_other (m : Memory) {a b : Addr} (v : Byte) (h : b ≠ a) :
    rawRead (rawWrite m a v) b = rawRead m b :=
  Sparse.read_write_other m v (fun e => h (BitVec.eq_of_toNat_eq e))

theorem rawRead_rawWrite_same {m : Memory} (hw : m.wf = true) (a : Addr) (v : Byte) : rawRead (rawWrite m a v) a = v :=
  Sparse.read_write_same hw a.toNat v

theorem rawWrite_wf {m : Memory} (hw : m.wf = true) (a : Addr) (v : Byte) : (rawWrite m a v).wf = true :=
  Sparse.write_wf hw a.isLt v

theorem rawWrite_rawRead {m : Memory} (hw : m.wf = true) (a : Addr) : rawWrite m a (rawRead m a) = m :=
  Sparse.write_read hw a.toNat

theorem rawWriteBytes_wf {m : Memory} (hw : m.wf = true) (a : Addr) (bs : List Byte) :
    (rawWriteBytes m a bs).wf = true := by
  induction bs generalizing m a with
  | nil => exact hw
  | cons b bs ih => exact ih (rawWrite_wf hw a b) (a + 1)

/-- What writing a run of bytes that ends inside memory does to a byte. -/
theorem rawRead_rawWriteBytes {m : Memory} (hw : m.wf = true) (a : Addr) {bs : List Byte}
    (h : a.toNat + bs.length ≤ 65536) (b : Addr) :
    rawRead (rawWriteBytes m a bs) b =
      if a.toNat ≤ b.toNat ∧ b.toNat < a.toNat + bs.length then bs.getD (b.toNat - a.toNat) 0 else rawRead m b := by
  induction bs generalizing m a with
  | nil => rw [if_neg (by simp only [List.length_nil]; omega)]; rfl
  | cons x bs ih =>
    simp only [List.length_cons] at h ⊢
    have hx := rawWrite_wf hw a x
    by_cases he : bs = []
    · subst he
      by_cases hb : b = a
      · subst hb
        rw [if_pos (by simp), Nat.sub_self, List.getD_cons_zero]; exact rawRead_rawWrite_same hw b x
      · have hn : b.toNat ≠ a.toNat := fun e => hb (BitVec.eq_of_toNat_eq e)
        rw [if_neg (by simp only [List.length_nil]; omega)]; exact rawRead_rawWrite_other m x hb
    · have hl := List.length_pos_iff.mpr he
      have ha : (a + 1).toNat = a.toNat + 1 := by bv_omega
      rw [rawWriteBytes, ih hx (a + 1) (by omega), ha]
      by_cases hb : b = a
      · subst hb
        rw [if_neg (by omega), if_pos (by omega), rawRead_rawWrite_same hw, Nat.sub_self, List.getD_cons_zero]
      · have hn : b.toNat ≠ a.toNat := fun e => hb (BitVec.eq_of_toNat_eq e)
        rw [rawRead_rawWrite_other m x hb]
        by_cases hc : a.toNat + 1 ≤ b.toNat ∧ b.toNat < a.toNat + 1 + bs.length
        · rw [if_pos hc, if_pos (by omega), show b.toNat - a.toNat = (b.toNat - (a.toNat + 1)) + 1 by omega,
            List.getD_cons_succ]
        · rw [if_neg hc, if_neg (by omega)]

theorem romMemory_wf (k : MachineCfg) (roms : RomImages) : (romMemory k roms).wf = true := by
  unfold romMemory
  have h := rawWriteBytes_wf (rawWriteBytes_wf (rawWriteBytes_wf (m := []) rfl 0x8000 (roms.char.take 4096)) 0xC000
    (roms.basic.take 8192)) 0xE000 (roms.kernal.take 8192)
  cases k.mem.cart
  · exact h
  · exact h
  · exact rawWriteBytes_wf h _ _

theorem loadRawRam_wf (k : MachineCfg) {m : Memory} (hw : m.wf = true) (a : Addr) (bs : List Byte) :
    (loadRawRam k m a bs).wf = true := by
  induction bs generalizing m a with
  | nil => exact hw
  | cons b bs ih =>
    unfold loadRawRam
    split
    · exact ih (rawWrite_wf hw a b) _
    · exact ih hw _

/-- What loading a raw RAM image from an address on does to a byte. -/
theorem rawRead_loadRawRam (k : MachineCfg) {m : Memory} (hw : m.wf = true) (a : Addr) {bs : List Byte}
    (h : a.toNat + bs.length ≤ 65536) (b : Addr) :
    rawRead (loadRawRam k m a bs) b =
      if a.toNat ≤ b.toNat ∧ b.toNat < a.toNat + bs.length ∧ (baseHandler k b).isRam = true
      then bs.getD (b.toNat - a.toNat) 0 else rawRead m b := by
  induction bs generalizing m a with
  | nil => rw [if_neg (by simp only [List.length_nil]; omega)]; rfl
  | cons x bs ih =>
    simp only [List.length_cons] at h ⊢
    let m' := if (baseHandler k a).isRam then rawWrite m a x else m
    have hm' : m'.wf = true := by simp only [m']; split; exacts [rawWrite_wf hw a x, hw]
    have hr : rawRead m' b = if b = a ∧ (baseHandler k b).isRam = true then x else rawRead m b := by
      by_cases hb : b = a
      · subst hb
        by_cases hram : (baseHandler k b).isRam = true
        · simp only [m', hram, if_true, and_self]; exact rawRead_rawWrite_same hw b x
        · simp [m', hram]
      · simp only [m', hb, false_and, if_false]
        split
        · exact rawRead_rawWrite_other m x hb
        · rfl
    have hn : b ≠ a → b.toNat ≠ a.toNat := fun hb e => hb (BitVec.eq_of_toNat_eq e)
    show rawRead (loadRawRam k m' (a + 1) bs) b = _
    by_cases he : bs = []
    · subst he
      simp only [loadRawRam, hr, List.length_nil]
      by_cases hb : b = a
      · subst hb; simp
      · have := hn hb
        rw [if_neg (by simp [hb]), if_neg (by omega)]
    · have hl := List.length_pos_iff.mpr he
      have ha : (a + 1).toNat = a.toNat + 1 := by bv_omega
      rw [ih hm' (a + 1) (by omega), ha, hr]
      by_cases hb : b = a
      · subst hb
        rw [if_neg (by omega)]
        by_cases hram : (baseHandler k b).isRam = true <;> simp [hram]
      · have := hn hb
        by_cases hc : a.toNat + 1 ≤ b.toNat ∧ b.toNat < a.toNat + 1 + bs.length ∧ (baseHandler k b).isRam = true
        · rw [if_pos hc, if_pos ⟨by omega, by omega, hc.2.2⟩,
            show b.toNat - a.toNat = (b.toNat - (a.toNat + 1)) + 1 by omega, List.getD_cons_succ]
        · rw [if_neg hc, if_neg (by simp [hb]), if_neg (fun g => hc ⟨by omega, by omega, g.2.2⟩)]

theorem applyProgram_wf (k : MachineCfg) {m : Memory} (hw : m.wf = true) (p : ProgramLoad) :
    (applyProgram k m p).2.wf = true := by
  unfold applyProgram
  split
  · split
    · exact rawWriteBytes_wf hw _ _
    · exact rawWriteBytes_wf hw _ _
    · exact hw
    · exact loadRawRam_wf k hw _ _
  · exact hw

/-- The reset machine's memory has the canonical form. -/
theorem reset_mem_wf : State.reset.mem.wf = true := rfl

end Sys2Proof.Machine
end

