-- ==== Sys2Proof/Laws/Bus.lean ====
section
/-! SUPPORT. Everything a bus access can do: what it leaves as it was, plain memory, and its independence of the CPU. -/

namespace Sys2Proof.Machine

open Sys2Proof

/-! ### The handler depends on the maps and the parameters only -/

theorem State.handler_congr {s t : State} (hm : t.maps = s.maps) (hc : t.cfg = s.cfg) (a : Addr) :
    t.handler a = s.handler a := by
  simp only [State.handler, hm, hc]

theorem State.plainAt_congr {s t : State} (hm : t.maps = s.maps) (hc : t.cfg = s.cfg) (a : Addr) :
    t.plainAt a = s.plainAt a := by
  simp only [State.plainAt, State.handler_congr hm hc]

theorem State.storedCell_congr {s t : State} (hm : t.maps = s.maps) (hc : t.cfg = s.cfg) (a : Addr) :
    t.storedCell a = s.storedCell a := by
  simp only [State.storedCell, State.handler_congr hm hc]

theorem State.trapAt_congr {s t : State} (ht : t.traps = s.traps) (a : Addr) : t.trapAt a = s.trapAt a := by
  simp only [State.trapAt, ht]

/-! ### Reads -/

/-- A step of the machine that leaves everything but the timer chips and the interrupt lines. -/
structure ChipsOnly (s t : State) : Prop where
  cpu : t.cpu = s.cpu
  traps : t.traps = s.traps
  mem : t.mem = s.mem
  maps : t.maps = s.maps
  vic : t.vic = s.vic
  cfg : t.cfg = s.cfg
  inputs : t.inputs = s.inputs
  script : t.script = s.script
  hostCalls : t.hostCalls = s.hostCalls

theorem ChipsOnly.refl (s : State) : ChipsOnly s s := ⟨rfl, rfl, rfl, rfl, rfl, rfl, rfl, rfl, rfl⟩

theorem ChipsOnly.trans {s t u : State} (h : ChipsOnly s t) (g : ChipsOnly t u) : ChipsOnly s u :=
  ⟨g.cpu.trans h.cpu, g.traps.trans h.traps, g.mem.trans h.mem, g.maps.trans h.maps, g.vic.trans h.vic,
    g.cfg.trans h.cfg, g.inputs.trans h.inputs, g.script.trans h.script, g.hostCalls.trans h.hostCalls⟩

theorem viaRead_chipsOnly (id : ViaId) (r : BitVec 4) (s : State) : ChipsOnly s (viaRead id r s).2 := by
  constructor <;> simp

theorem orRead_chipsOnly (b : Bool) (f : State → Byte × State) (hf : ∀ s, ChipsOnly s (f s).2) (p : Byte × State) :
    ChipsOnly p.2 (orRead b f p).2 := by
  unfold orRead
  split
  · exact hf p.2
  · exact ChipsOnly.refl _

theorem compositeRead_chipsOnly (chips : ChipSet) (r : BitVec 4) (s : State) :
    ChipsOnly s (compositeRead chips r s).2 := by
  unfold compositeRead
  have h1 := orRead_chipsOnly chips.vic (fun s => (vicRead r s, s)) (fun s => ChipsOnly.refl s) (0, s)
  have h2 := orRead_chipsOnly chips.via1 (viaRead .via1 r) (viaRead_chipsOnly .via1 r)
    (orRead chips.vic (fun s => (vicRead r s, s)) (0, s))
  exact (h1.trans h2).trans (orRead_chipsOnly chips.via2 _ (viaRead_chipsOnly .via2 r) _)

/-- Everything a bus read can do: timer-chip flags and the interrupt lines, nothing else. -/
theorem busRead_chipsOnly (a : Addr) (s : State) : ChipsOnly s (busRead a s).2 := by
  unfold busRead
  split
  · exact ChipsOnly.refl s
  · exact ChipsOnly.refl s
  · exact ChipsOnly.refl s
  · exact ChipsOnly.refl s
  · exact viaRead_chipsOnly _ _ s
  · exact ChipsOnly.refl s
  · exact compositeRead_chipsOnly _ _ s

@[simp] theorem busRead_cpu (a : Addr) (s : State) : (busRead a s).2.cpu = s.cpu := (busRead_chipsOnly a s).cpu
@[simp] theorem busRead_traps (a : Addr) (s : State) : (busRead a s).2.traps = s.traps := (busRead_chipsOnly a s).traps
@[simp] theorem busRead_mem (a : Addr) (s : State) : (busRead a s).2.mem = s.mem := (busRead_chipsOnly a s).mem
@[simp] theorem busRead_maps (a : Addr) (s : State) : (busRead a s).2.maps = s.maps := (busRead_chipsOnly a s).maps
@[simp] theorem busRead_vic (a : Addr) (s : State) : (busRead a s).2.vic = s.vic := (busRead_chipsOnly a s).vic
@[simp] theorem busRead_cfg (a : Addr) (s : State) : (busRead a s).2.cfg = s.cfg := (busRead_chipsOnly a s).cfg
@[simp] theorem busRead_inputs (a : Addr) (s : State) : (busRead a s).2.inputs = s.inputs :=
  (busRead_chipsOnly a s).inputs
@[simp] theorem busRead_script (a : Addr) (s : State) : (busRead a s).2.script = s.script :=
  (busRead_chipsOnly a s).script
@[simp] theorem busRead_hostCalls (a : Addr) (s : State) : (busRead a s).2.hostCalls = s.hostCalls :=
  (busRead_chipsOnly a s).hostCalls

/-- A read of plain memory leaves the machine as it was. -/
theorem busRead_plain_state {s : State} {a : Addr} (h : s.plainAt a = true) : (busRead a s).2 = s := by
  unfold State.plainAt at h
  unfold busRead
  split <;> simp_all [Handler.plain]

/-- What a read of plain memory returns depends on the memory, the maps and the parameters only. -/
theorem peek_congr {s t : State} {a : Addr} (h : s.plainAt a = true) (hmem : t.mem = s.mem) (hm : t.maps = s.maps)
    (hc : t.cfg = s.cfg) : t.peek a = s.peek a := by
  unfold State.plainAt at h
  have hh := State.handler_congr hm hc a
  unfold State.peek busRead
  rw [hh]
  split <;> simp_all [Handler.plain]

/-! ### Writes -/

@[simp] theorem compositeWrite_cpu (chips : ChipSet) (r : BitVec 4) (x : Byte) (s : State) :
    (compositeWrite chips r x s).cpu = s.cpu := by
  unfold compositeWrite; dsimp only; split <;> split <;> split <;> simp

@[simp] theorem compositeWrite_traps (chips : ChipSet) (r : BitVec 4) (x : Byte) (s : State) :
    (compositeWrite chips r x s).traps = s.traps := by
  unfold compositeWrite; dsimp only; split <;> split <;> split <;> simp

@[simp] theorem compositeWrite_mem (chips : ChipSet) (r : BitVec 4) (x : Byte) (s : State) :
    (compositeWrite chips r x s).mem = s.mem := by
  unfold compositeWrite; dsimp only; split <;> split <;> split <;> simp

@[simp] theorem compositeWrite_maps (chips : ChipSet) (r : BitVec 4) (x : Byte) (s : State) :
    (compositeWrite chips r x s).maps = s.maps := by
  unfold compositeWrite; dsimp only; split <;> split <;> split <;> simp

@[simp] theorem compositeWrite_cfg (chips : ChipSet) (r : BitVec 4) (x : Byte) (s : State) :
    (compositeWrite chips r x s).cfg = s.cfg := by
  unfold compositeWrite; dsimp only; split <;> split <;> split <;> simp

@[simp] theorem compositeWrite_inputs (chips : ChipSet) (r : BitVec 4) (x : Byte) (s : State) :
    (compositeWrite chips r x s).inputs = s.inputs := by
  unfold compositeWrite; dsimp only; split <;> split <;> split <;> simp

@[simp] theorem compositeWrite_script (chips : ChipSet) (r : BitVec 4) (x : Byte) (s : State) :
    (compositeWrite chips r x s).script = s.script := by
  unfold compositeWrite; dsimp only; split <;> split <;> split <;> simp

@[simp] theorem busWrite_cpu (a : Addr) (x : Byte) (s : State) : (busWrite a x s).cpu = s.cpu := by
  unfold busWrite; split <;> simp
@[simp] theorem busWrite_traps (a : Addr) (x : Byte) (s : State) : (busWrite a x s).traps = s.traps := by
  unfold busWrite; split <;> simp
@[simp] theorem busWrite_maps (a : Addr) (x : Byte) (s : State) : (busWrite a x s).maps = s.maps := by
  unfold busWrite; split <;> simp
@[simp] theorem busWrite_cfg (a : Addr) (x : Byte) (s : State) : (busWrite a x s).cfg = s.cfg := by
  unfold busWrite; split <;> simp
@[simp] theorem busWrite_inputs (a : Addr) (x : Byte) (s : State) : (busWrite a x s).inputs = s.inputs := by
  unfold busWrite; split <;> simp
@[simp] theorem busWrite_script (a : Addr) (x : Byte) (s : State) : (busWrite a x s).script = s.script := by
  unfold busWrite; split <;> simp

/-- The memory a bus write leaves: one cell written, where the handler has one. -/
theorem busWrite_mem (a : Addr) (x : Byte) (s : State) :
    (busWrite a x s).mem =
      match s.handler a with
      | .ram c => rawWrite s.mem c x
      | .colour c => rawWrite s.mem c (x &&& 0x0F)
      | .rom _ | .vic _ | .via _ _ | .unconnected | .composite _ _ => s.mem := by
  unfold busWrite
  cases h : s.handler a <;> simp

/-- A byte outside the cell a store reaches reads as before. -/
theorem busWrite_other {s : State} {a c : Addr} (x : Byte) (h : s.storedCell a ≠ some c) :
    rawRead (busWrite a x s).mem c = rawRead s.mem c := by
  rw [busWrite_mem]
  unfold State.storedCell at h
  cases hh : s.handler a with
  | ram k => exact rawRead_rawWrite_other _ _ (by rw [hh] at h; intro e; subst e; simp at h)
  | colour k => exact rawRead_rawWrite_other _ _ (by rw [hh] at h; intro e; subst e; simp at h)
  | rom _ => rfl
  | vic _ => rfl
  | via _ _ => rfl
  | unconnected => rfl
  | composite _ _ => rfl

theorem busWrite_mem_wf {s : State} (h : s.mem.wf = true) (a : Addr) (x : Byte) : (busWrite a x s).mem.wf = true := by
  rw [busWrite_mem]
  split
  · exact rawWrite_wf h _ _
  · exact rawWrite_wf h _ _
  all_goals exact h

/-! ### No access depends on the CPU -/

@[simp] theorem State.handler_withCpu (s : State) (c : Cpu) (a : Addr) : (s.withCpu c).handler a = s.handler a := rfl
@[simp] theorem State.plainAt_withCpu (s : State) (c : Cpu) (a : Addr) : (s.withCpu c).plainAt a = s.plainAt a := rfl
@[simp] theorem State.withCpu_withCpu (s : State) (c d : Cpu) : (s.withCpu c).withCpu d = s.withCpu d := rfl
@[simp] theorem State.withCpu_self (s : State) : s.withCpu s.cpu = s := rfl

theorem viaRead_withCpu (id : ViaId) (r : BitVec 4) (s : State) (c : Cpu) :
    viaRead id r (s.withCpu c) = ((viaRead id r s).1, (viaRead id r s).2.withCpu c) := by
  cases id <;> rfl

theorem orRead_withCpu (b : Bool) (f : State → Byte × State) (c : Cpu)
    (hf : ∀ s : State, f (s.withCpu c) = ((f s).1, (f s).2.withCpu c)) (x : Byte) (s : State) :
    orRead b f (x, s.withCpu c) = ((orRead b f (x, s)).1, (orRead b f (x, s)).2.withCpu c) := by
  unfold orRead
  cases b
  · rfl
  · simp [hf]

theorem compositeRead_withCpu (chips : ChipSet) (r : BitVec 4) (s : State) (c : Cpu) :
    compositeRead chips r (s.withCpu c) = ((compositeRead chips r s).1, (compositeRead chips r s).2.withCpu c) := by
  unfold compositeRead
  rw [orRead_withCpu chips.vic (fun s => (vicRead r s, s)) c (fun s => rfl) 0 s]
  rw [orRead_withCpu chips.via1 (viaRead .via1 r) c (fun s => viaRead_withCpu .via1 r s c)]
  rw [orRead_withCpu chips.via2 (viaRead .via2 r) c (fun s => viaRead_withCpu .via2 r s c)]

theorem busRead_withCpu (a : Addr) (s : State) (c : Cpu) :
    busRead a (s.withCpu c) = ((busRead a s).1, (busRead a s).2.withCpu c) := by
  unfold busRead
  rw [State.handler_withCpu]
  cases s.handler a with
  | ram _ => rfl
  | rom _ => rfl
  | colour _ => rfl
  | vic _ => rfl
  | via id r => exact viaRead_withCpu id r s c
  | unconnected => rfl
  | composite chips r => exact compositeRead_withCpu chips r s c

theorem viaWrite_withCpu (id : ViaId) (r : BitVec 4) (x : Byte) (s : State) (c : Cpu) :
    viaWrite id r x (s.withCpu c) = (viaWrite id r x s).withCpu c := by
  cases id <;> rfl

theorem compositeWrite_withCpu (chips : ChipSet) (r : BitVec 4) (x : Byte) (s : State) (c : Cpu) :
    compositeWrite chips r x (s.withCpu c) = (compositeWrite chips r x s).withCpu c := by
  have hv : ∀ s : State, vicWrite r x (s.withCpu c) = (vicWrite r x s).withCpu c := fun s => rfl
  unfold compositeWrite
  dsimp only
  split <;> split <;> split <;> simp only [hv, viaWrite_withCpu]

theorem busWrite_withCpu (a : Addr) (x : Byte) (s : State) (c : Cpu) :
    busWrite a x (s.withCpu c) = (busWrite a x s).withCpu c := by
  unfold busWrite
  rw [State.handler_withCpu]
  cases s.handler a with
  | ram _ => rfl
  | rom _ => rfl
  | colour _ => rfl
  | vic _ => rfl
  | via id r => exact viaWrite_withCpu id r x s c
  | unconnected => rfl
  | composite chips r => exact compositeWrite_withCpu chips r x s c

@[simp] theorem peek_withCpu (s : State) (c : Cpu) (a : Addr) : (s.withCpu c).peek a = s.peek a := by
  simp only [State.peek, busRead_withCpu]

end Sys2Proof.Machine
end

