-- ==== Sys2Proof/Laws/Run.lean ====
section
/-! SUPPORT. How a program runs: one lemma per kind of cycle, each saying all that the tick around it does. The state of a
program in progress is written `u.withCpu c`: `u` gives everything but the CPU. -/

namespace Sys2Proof.Machine

open Sys2Proof

/-! ### The tick does not depend on the CPU -/

@[simp] theorem beforeCpu_withCpu (s : State) (c : Cpu) : beforeCpu (s.withCpu c) = (beforeCpu s).withCpu c := by
  unfold beforeCpu vicCycle drawInputs State.withCpu
  dsimp only
  split <;> rfl

@[simp] theorem afterCpu_withCpu (s : State) (c : Cpu) : afterCpu (s.withCpu c) = (afterCpu s).withCpu c := rfl

@[simp] theorem idleTick_withCpu (s : State) (c : Cpu) : idleTick (s.withCpu c) = (idleTick s).withCpu c := by
  simp only [idleTick, beforeCpu_withCpu, afterCpu_withCpu]

theorem readTick_withCpu (a : Addr) (s : State) (c : Cpu) : readTick a (s.withCpu c) = (readTick a s).withCpu c := by
  simp only [readTick, beforeCpu_withCpu, busRead_withCpu, afterCpu_withCpu]

theorem writeTick_withCpu (a : Addr) (v : Byte) (s : State) (c : Cpu) :
    writeTick a v (s.withCpu c) = (writeTick a v s).withCpu c := by
  simp only [writeTick, beforeCpu_withCpu, busWrite_withCpu, afterCpu_withCpu]

/-! ### Idle ticks -/

theorem idleTicks_succ (n : Nat) (s : State) : idleTicks (n + 1) s = idleTick (idleTicks n s) := by
  induction n generalizing s with
  | zero => rfl
  | succ n ih => exact ih (idleTick s)

@[simp] theorem idleTicks_cpu (n : Nat) (s : State) : (idleTicks n s).cpu = s.cpu := by
  induction n generalizing s with
  | zero => rfl
  | succ n ih => simp [idleTicks, ih]
@[simp] theorem idleTicks_traps (n : Nat) (s : State) : (idleTicks n s).traps = s.traps := by
  induction n generalizing s with
  | zero => rfl
  | succ n ih => simp [idleTicks, ih]
@[simp] theorem idleTicks_mem (n : Nat) (s : State) : (idleTicks n s).mem = s.mem := by
  induction n generalizing s with
  | zero => rfl
  | succ n ih => simp [idleTicks, ih]
@[simp] theorem idleTicks_maps (n : Nat) (s : State) : (idleTicks n s).maps = s.maps := by
  induction n generalizing s with
  | zero => rfl
  | succ n ih => simp [idleTicks, ih]
@[simp] theorem idleTicks_cfg (n : Nat) (s : State) : (idleTicks n s).cfg = s.cfg := by
  induction n generalizing s with
  | zero => rfl
  | succ n ih => simp [idleTicks, ih]

/-- Between ticks of no access to it, plain memory reads as it did. -/
theorem peek_before_idle {s : State} {a : Addr} (h : s.plainAt a = true) (n : Nat) :
    (busRead a (beforeCpu (idleTicks n s))).1 = s.peek a :=
  peek_congr h (by simp) (by simp) (by simp)

theorem plainAt_before_idle (s : State) (a : Addr) (n : Nat) :
    (beforeCpu (idleTicks n s)).plainAt a = s.plainAt a :=
  State.plainAt_congr (by simp) (by simp) a

/-- A read of plain memory makes an idle tick. -/
theorem readTick_idle {s : State} {a : Addr} (h : s.plainAt a = true) (n : Nat) :
    readTick a (idleTicks n s) = idleTicks (n + 1) s := by
  rw [idleTicks_succ]
  unfold readTick idleTick
  rw [busRead_plain_state ((plainAt_before_idle s a n).trans h)]

/-! ### Cycles as programs run them -/

theorem readCycle_eq (fin : State → State) (addr : Cpu → Addr) (eff : Byte → Cpu → Cpu) (u : State) (c : Cpu) :
    readCycle fin addr eff (u.withCpu c) =
      fin ((busRead (addr c) u).2.withCpu (eff (busRead (addr c) u).1 c)) := by
  simp only [readCycle, State.withCpu_cpu, busRead_withCpu]
  rfl

theorem writeCycle_eq (fin : State → State) (addr : Cpu → Addr) (out : Cpu → Byte × Cpu) (u : State) (c : Cpu) :
    writeCycle fin addr out (u.withCpu c) = fin ((busWrite (addr c) (out c).1 u).withCpu (out c).2) := by
  simp only [writeCycle, State.withCpu_cpu, busWrite_withCpu]
  rfl

/-- A tick's CPU cycle, the rest of the tick around it. -/
theorem tickWith_eq (cyc : Cycle) (s : State) : tickWith cyc s = afterCpu (cyc (beforeCpu s)) := rfl

theorem finish_eq (s : State) (c : Cpu) : finish s c = afterCpu (endInstr (s.withCpu c)) := rfl

@[simp] theorem finish_prog (s : State) (c : Cpu) : (finish s c).cpu.prog = .none := by simp [finish]

/-- A reading cycle that is not the last. -/
theorem runCycles_read (addr : Cpu → Addr) (eff : Byte → Cpu → Cpu) (cs : List Cycle) (u : State) (c : Cpu)
    (h : (eff (busRead (addr c) (beforeCpu u)).1 c).prog ≠ .none) :
    runCycles (readCycle advance addr eff :: cs) (u.withCpu c) =
      runCycles cs ((readTick (addr c) u).withCpu
        { eff (busRead (addr c) (beforeCpu u)).1 c with t := (eff (busRead (addr c) (beforeCpu u)).1 c).t + 1 }) := by
  have e : tickWith (readCycle advance addr eff) (u.withCpu c) =
      (readTick (addr c) u).withCpu
        { eff (busRead (addr c) (beforeCpu u)).1 c with t := (eff (busRead (addr c) (beforeCpu u)).1 c).t + 1 } := by
    rw [tickWith_eq, beforeCpu_withCpu, readCycle_eq]
    rfl
  rw [runCycles, e]
  dsimp only [State.withCpu_cpu]
  split
  · rename_i hp; exact absurd hp h
  · rfl

/-- A reading cycle that ends an instruction. -/
theorem runCycles_lastRead (addr : Cpu → Addr) (eff : Byte → Cpu → Cpu) (cs : List Cycle) (u : State) (c : Cpu) :
    runCycles (readCycle endInstr addr eff :: cs) (u.withCpu c) =
      finish (busRead (addr c) (beforeCpu u)).2 (eff (busRead (addr c) (beforeCpu u)).1 c) := by
  have e : tickWith (readCycle endInstr addr eff) (u.withCpu c) =
      finish (busRead (addr c) (beforeCpu u)).2 (eff (busRead (addr c) (beforeCpu u)).1 c) := by
    rw [tickWith_eq, beforeCpu_withCpu, readCycle_eq, finish_eq]
  rw [runCycles, e, finish_prog]

/-- A writing cycle that is not the last. -/
theorem runCycles_write (addr : Cpu → Addr) (out : Cpu → Byte × Cpu) (cs : List Cycle) (u : State) (c : Cpu)
    (h : (out c).2.prog ≠ .none) :
    runCycles (writeCycle advance addr out :: cs) (u.withCpu c) =
      runCycles cs ((writeTick (addr c) (out c).1 u).withCpu { (out c).2 with t := (out c).2.t + 1 }) := by
  have e : tickWith (writeCycle advance addr out) (u.withCpu c) =
      (writeTick (addr c) (out c).1 u).withCpu { (out c).2 with t := (out c).2.t + 1 } := by
    rw [tickWith_eq, beforeCpu_withCpu, writeCycle_eq]
    rfl
  rw [runCycles, e]
  dsimp only [State.withCpu_cpu]
  split
  · rename_i hp; exact absurd hp h
  · rfl

/-- A writing cycle that ends an instruction. -/
theorem runCycles_lastWrite (addr : Cpu → Addr) (out : Cpu → Byte × Cpu) (cs : List Cycle) (u : State) (c : Cpu) :
    runCycles (writeCycle endInstr addr out :: cs) (u.withCpu c) =
      finish (busWrite (addr c) (out c).1 (beforeCpu u)) (out c).2 := by
  have e : tickWith (writeCycle endInstr addr out) (u.withCpu c) =
      finish (busWrite (addr c) (out c).1 (beforeCpu u)) (out c).2 := by
    rw [tickWith_eq, beforeCpu_withCpu, writeCycle_eq, finish_eq]
  rw [runCycles, e, finish_prog]

/-- A reading cycle of plain memory that is not the last: an idle tick for everything but the CPU. -/
theorem runCycles_plain (addr : Cpu → Addr) (eff : Byte → Cpu → Cpu) (cs : List Cycle) (s : State) (n : Nat) (c : Cpu)
    (hp : s.plainAt (addr c) = true) (h : (eff (s.peek (addr c)) c).prog ≠ .none) :
    runCycles (readCycle advance addr eff :: cs) ((idleTicks n s).withCpu c) =
      runCycles cs ((idleTicks (n + 1) s).withCpu
        { eff (s.peek (addr c)) c with t := (eff (s.peek (addr c)) c).t + 1 }) := by
  have hv := peek_before_idle hp n
  rw [runCycles_read _ _ _ _ _ (by rw [hv]; exact h), hv, readTick_idle hp]

/-- Two cycles that agree in the state the tick gives them run alike. -/
theorem runCycles_congr {f g : Cycle} {s : State} (h : f (beforeCpu s) = g (beforeCpu s)) (cs : List Cycle) :
    runCycles (f :: cs) s = runCycles (g :: cs) s := by
  have e : tickWith f s = tickWith g s := by rw [tickWith_eq, tickWith_eq, h]
  simp only [runCycles, e]

/-- What every cycle of a program keeps, its run keeps: the induction of every frame and invariant. -/
theorem runCycles_keeps (P : State → Prop) (cs : List Cycle) (h : ∀ c ∈ cs, ∀ s, P s → P (tickWith c s)) (s : State)
    (hs : P s) : P (runCycles cs s) := by
  induction cs generalizing s with
  | nil => exact hs
  | cons c cs ih =>
    have h1 : P (tickWith c s) := h c (by simp) s hs
    have h2 : P (runCycles cs (tickWith c s)) := ih (fun d hd => h d (by simp [hd])) _ h1
    unfold runCycles
    dsimp only
    split
    · exact h1
    · exact h2

/-- A property that the other chips' parts of a tick keep is kept by a tick whose CPU cycle keeps it. -/
theorem tickWith_keeps (P : State → Prop) (c : Cycle) (hb : ∀ s, P s → P (beforeCpu s)) (hc : ∀ s, P s → P (c s))
    (ha : ∀ s, P s → P (afterCpu s)) (s : State) (hs : P s) : P (tickWith c s) := by
  rw [tickWith_eq]
  exact ha _ (hc _ (hb _ hs))

/-- A property that the bus read and the end of a cycle keep is kept by a reading cycle, whatever it does to the CPU. -/
theorem readCycle_keeps (P : State → Prop) (fin : State → State) (addr : Cpu → Addr) (eff : Byte → Cpu → Cpu)
    (hr : ∀ a s, P s → P (busRead a s).2) (hu : ∀ s c, P s → P (s.withCpu c)) (hf : ∀ s, P s → P (fin s)) (s : State)
    (hs : P s) : P (readCycle fin addr eff s) := by
  have e := readCycle_eq fin addr eff s s.cpu
  rw [State.withCpu_self] at e
  rw [e]
  exact hf _ (hu _ _ (hr _ _ hs))

/-- A property that the cycle's own bus write and the end of a cycle keep is kept by a writing cycle. -/
theorem writeCycle_keeps (P : State → Prop) (fin : State → State) (addr : Cpu → Addr) (out : Cpu → Byte × Cpu)
    (hu : ∀ s c, P s → P (s.withCpu c)) (hf : ∀ s, P s → P (fin s)) (s : State)
    (hw : P (busWrite (addr s.cpu) (out s.cpu).1 s)) : P (writeCycle fin addr out s) := by
  have e := writeCycle_eq fin addr out s s.cpu
  rw [State.withCpu_self] at e
  rw [e]
  exact hf _ (hu _ _ hw)

/-! ### The opcode fetch -/

/-- The program of an instruction is never the empty one. -/
@[simp] theorem progOf_ne_none (i : Instr) : progOf i ≠ .none := by unfold progOf; split <;> simp

/-- The CPU after the opcode fetch of an instruction (rules R191, R431). -/
def Cpu.fetchedOpcode (k : MachineCfg) (i : Instr) (c : Cpu) : Cpu :=
  { c.incPc with prog := progOf i, t := 2, undocCount := if runsAsNop k i then c.undocCount + 1 else c.undocCount }

/-- The opcode fetch, wherever PC points. -/
theorem runCycles_fetch (i : Instr) (cs : List Cycle) (s : State) :
    runCycles (fetchCycle i :: cs) s = runCycles cs ((readTick s.cpu.pc s).withCpu (s.cpu.fetchedOpcode s.cfg i)) := by
  have e : tickWith (fetchCycle i) s = (readTick s.cpu.pc s).withCpu (s.cpu.fetchedOpcode s.cfg i) := by
    have h := readCycle_eq id (fun c => c.pc) (fun _ c => c.fetchedOpcode s.cfg i) (beforeCpu s) s.cpu
    rw [tickWith_eq]
    have hc : (beforeCpu s).cfg = s.cfg := beforeCpu_cfg s
    have : fetchCycle i (beforeCpu s) =
        readCycle id (fun c => c.pc) (fun _ c => c.fetchedOpcode s.cfg i) ((beforeCpu s).withCpu s.cpu) := by
      rw [← hc, ← beforeCpu_cpu s, State.withCpu_self]
      rfl
    rw [this, h]
    rfl
  rw [runCycles, e]
  dsimp only [State.withCpu_cpu]
  split
  · rename_i hp; exact absurd hp (progOf_ne_none i)
  · rfl

/-- The opcode fetch from plain memory. -/
theorem runCycles_fetch_plain (i : Instr) (cs : List Cycle) {s : State} (hp : s.plainAt s.cpu.pc = true) :
    runCycles (fetchCycle i :: cs) s = runCycles cs ((idleTicks 1 s).withCpu (s.cpu.fetchedOpcode s.cfg i)) := by
  rw [runCycles_fetch]
  have := readTick_idle hp 0
  rw [show idleTicks 0 s = s from rfl] at this
  rw [this]

end Sys2Proof.Machine
end

