-- ==== Sys2Proof/Laws/Programs.lean ====
section
/-! SUPPORT. What the program of each access class comes to: the address cycles, the carry cycle, and the read, write and
read-modify-write bodies, each said once. -/

namespace Sys2Proof.Machine

open Sys2Proof

set_option linter.unusedSimpArgs false

/-! ### Address arithmetic -/

theorem mk16_toNat (h l : Byte) : (mk16 h l).toNat = h.toNat * 256 + l.toNat := by
  simp only [mk16, BitVec.toNat_append]
  rw [← Nat.shiftLeft_add_eq_or_of_lt l.isLt, Nat.shiftLeft_eq]

theorem hiByte_toNat (a : Addr) : (hiByte a).toNat = a.toNat / 256 := by
  have := a.isLt
  simp only [hiByte, BitVec.extractLsb'_toNat, Nat.shiftRight_eq_div_pow]
  omega

theorem loByte_toNat (a : Addr) : (loByte a).toNat = a.toNat % 256 := by
  simp only [loByte, BitVec.extractLsb'_toNat, Nat.shiftRight_eq_div_pow]
  omega

@[simp] theorem mk16_hi_lo (a : Addr) : mk16 (hiByte a) (loByte a) = a := by
  apply BitVec.eq_of_toNat_eq
  rw [mk16_toNat, hiByte_toNat, loByte_toNat]
  omega

@[simp] theorem hiByte_mk16 (h l : Byte) : hiByte (mk16 h l) = h := by
  apply BitVec.eq_of_toNat_eq
  have := l.isLt
  rw [hiByte_toNat, mk16_toNat]
  omega

@[simp] theorem loByte_mk16 (h l : Byte) : loByte (mk16 h l) = l := by
  apply BitVec.eq_of_toNat_eq
  have := l.isLt
  rw [loByte_toNat, mk16_toNat]
  omega

theorem mk16_add (h l idx : Byte) :
    mk16 h l + idx.setWidth 16 = mk16 (if l.toNat + idx.toNat > 255 then h + 1 else h) (l + idx) := by
  apply BitVec.eq_of_toNat_eq
  have hl := l.isLt
  have hi := idx.isLt
  have hh := h.isLt
  rw [BitVec.toNat_add, mk16_toNat, mk16_toNat, BitVec.toNat_setWidth, BitVec.toNat_add]
  split
  · rw [BitVec.toNat_add]; simp; omega
  · omega

/-! ### The address cycles -/

/-- How many operand bytes a mode has (rule R171). -/
def memBytes : MemMode → Nat
  | .abs | .absx | .absy => 2
  | .zp | .zpx | .zpy | .izx | .izy => 1

/-- The CPU when the address cycles of a mode are done: PC past the operand bytes, the address in the latches. -/
structure AddressReady (s : State) (i : Instr) (m : MemMode) (c : Cpu) : Prop where
  regs : c.regs = s.fetched i
  prog : c.prog = progOf i
  latched : m.latched c = if m.carries then s.uncarriedAddress m else s.operandAddress m
  cross : m.carries = true → c.cross = s.crosses m
  fixed : m.carries = true → m.latched c.fixHigh = s.operandAddress m
  high : m.carries = true → c.adh = baseHigh s.peek (s.cpu.pc + 1) m
  low : m.carries = true → c.adl = loByte (s.operandAddress m)
  flat : m.carries = false → m.latched c = s.operandAddress m

theorem carried_ne (h l : Byte) (p : Prop) [Decidable p] :
    (mk16 h l != mk16 (if p then h + 1#8 else h) l) = decide p := by
  by_cases hc : p
  · simp only [hc, if_true, decide_true, bne_iff_ne, ne_eq]
    intro e
    have e2 := congrArg BitVec.toNat (congrArg hiByte e)
    rw [hiByte_mk16, hiByte_mk16, BitVec.toNat_add] at e2
    have := h.isLt
    simp at e2
    omega
  · simp [hc]

theorem Cpu.fixHigh_adl (c : Cpu) : c.fixHigh.adl = c.adl := by unfold Cpu.fixHigh; split <;> rfl
theorem Cpu.fixHigh_adh (c : Cpu) : c.fixHigh.adh = if c.cross then c.adh + 1 else c.adh := by
  unfold Cpu.fixHigh; split <;> rfl
theorem Cpu.fixHigh_regs (c : Cpu) : c.fixHigh.regs = c.regs := by unfold Cpu.fixHigh; split <;> rfl
theorem Cpu.fixHigh_prog (c : Cpu) : c.fixHigh.prog = c.prog := by unfold Cpu.fixHigh; split <;> rfl
theorem Cpu.fixHigh_cross (c : Cpu) : c.fixHigh.cross = c.cross := by unfold Cpu.fixHigh; split <;> rfl

/-- The opcode fetch and the address cycles of a mode, from plain memory. -/
theorem runCycles_address (s : State) (i : Instr) (m : MemMode) (hb : i.operandBytes = memBytes m)
    (hp : s.codePlain m = true) (rest : List Cycle) :
    ∃ c : Cpu, AddressReady s i m c ∧
      runCycles (fetchCycle i :: (addressCycles m ++ rest)) s =
        runCycles rest ((idleTicks (1 + addressTicks m) s).withCpu c) := by
  have hpc : s.plainAt s.cpu.pc = true := by
    simp only [State.codePlain, Bool.and_eq_true] at hp; exact hp.1
  have hop : (s.addressReads m).all s.plainAt = true := by
    simp only [State.codePlain, Bool.and_eq_true] at hp; exact hp.2
  have hprog : ∀ k, (s.cpu.fetchedOpcode k i).prog ≠ .none := fun k => progOf_ne_none i
  rw [runCycles_fetch_plain i _ hpc]
  cases m
  case zp =>
    simp only [State.addressReads, List.all_cons, List.all_nil, Bool.and_true, Bool.and_eq_true] at hop
    have h1 := hop
    simp only [addressCycles, fetchAdl, fetchAdh, fetchPtr, fetchAdhIndexed, indexZeroPage, indexPtr, readPtrLow,
      readPtrHigh, readPtrHighIndexed, fetchByte, List.cons_append, List.nil_append]
    rw [runCycles_plain]
    · refine ⟨_, ?_, rfl⟩
      constructor
      · simp [Cpu.regs, State.fetched, Cpu.fetchedOpcode, Cpu.incPc, Cpu.indexAdl, hb, memBytes, BitVec.add_assoc]
      all_goals simp [MemMode.latched, MemMode.carries, MemMode.inZeroPage, State.operandAddress, State.uncarriedAddress,
        State.crosses, effectiveAddress, baseHigh, Cpu.fetchedOpcode, Cpu.incPc, Cpu.indexAdl, Cpu.fixHigh_adl, Cpu.fixHigh_adh,
        BitVec.add_assoc, carried_ne, mk16_add]
    all_goals first | exact progOf_ne_none i | (simp [Cpu.fetchedOpcode, Cpu.incPc, Cpu.indexAdl, BitVec.add_assoc] at *; assumption)
  case zpx =>
    simp only [State.addressReads, List.all_cons, List.all_nil, Bool.and_true, Bool.and_eq_true] at hop
    obtain ⟨h1, h2⟩ := hop
    simp only [addressCycles, fetchAdl, fetchAdh, fetchPtr, fetchAdhIndexed, indexZeroPage, indexPtr, readPtrLow,
      readPtrHigh, readPtrHighIndexed, fetchByte, List.cons_append, List.nil_append]
    rw [runCycles_plain, runCycles_plain]
    · refine ⟨_, ?_, rfl⟩
      constructor
      · simp [Cpu.regs, State.fetched, Cpu.fetchedOpcode, Cpu.incPc, Cpu.indexAdl, hb, memBytes, BitVec.add_assoc]
      all_goals simp [MemMode.latched, MemMode.carries, MemMode.inZeroPage, State.operandAddress, State.uncarriedAddress,
        State.crosses, effectiveAddress, baseHigh, Cpu.fetchedOpcode, Cpu.incPc, Cpu.indexAdl, Cpu.fixHigh_adl, Cpu.fixHigh_adh,
        BitVec.add_assoc, carried_ne, mk16_add]
    all_goals first | exact progOf_ne_none i | (simp [Cpu.fetchedOpcode, Cpu.incPc, Cpu.indexAdl, BitVec.add_assoc] at *; assumption)
  case zpy =>
    simp only [State.addressReads, List.all_cons, List.all_nil, Bool.and_true, Bool.and_eq_true] at hop
    obtain ⟨h1, h2⟩ := hop
    simp only [addressCycles, fetchAdl, fetchAdh, fetchPtr, fetchAdhIndexed, indexZeroPage, indexPtr, readPtrLow,
      readPtrHigh, readPtrHighIndexed, fetchByte, List.cons_append, List.nil_append]
    rw [runCycles_plain, runCycles_plain]
    · refine ⟨_, ?_, rfl⟩
      constructor
      · simp [Cpu.regs, State.fetched, Cpu.fetchedOpcode, Cpu.incPc, Cpu.indexAdl, hb, memBytes, BitVec.add_assoc]
      all_goals simp [MemMode.latched, MemMode.carries, MemMode.inZeroPage, State.operandAddress, State.uncarriedAddress,
        State.crosses, effectiveAddress, baseHigh, Cpu.fetchedOpcode, Cpu.incPc, Cpu.indexAdl, Cpu.fixHigh_adl, Cpu.fixHigh_adh,
        BitVec.add_assoc, carried_ne, mk16_add]
    all_goals first | exact progOf_ne_none i | (simp [Cpu.fetchedOpcode, Cpu.incPc, Cpu.indexAdl, BitVec.add_assoc] at *; assumption)
  case abs =>
    simp only [State.addressReads, List.all_cons, List.all_nil, Bool.and_true, Bool.and_eq_true] at hop
    obtain ⟨h1, h2⟩ := hop
    simp only [addressCycles, fetchAdl, fetchAdh, fetchPtr, fetchAdhIndexed, indexZeroPage, indexPtr, readPtrLow,
      readPtrHigh, readPtrHighIndexed, fetchByte, List.cons_append, List.nil_append]
    rw [runCycles_plain, runCycles_plain]
    · refine ⟨_, ?_, rfl⟩
      constructor
      · simp [Cpu.regs, State.fetched, Cpu.fetchedOpcode, Cpu.incPc, Cpu.indexAdl, hb, memBytes, BitVec.add_assoc]
      all_goals simp [MemMode.latched, MemMode.carries, MemMode.inZeroPage, State.operandAddress, State.uncarriedAddress,
        State.crosses, effectiveAddress, baseHigh, Cpu.fetchedOpcode, Cpu.incPc, Cpu.indexAdl, Cpu.fixHigh_adl, Cpu.fixHigh_adh,
        BitVec.add_assoc, carried_ne, mk16_add]
    all_goals first | exact progOf_ne_none i | (simp [Cpu.fetchedOpcode, Cpu.incPc, Cpu.indexAdl, BitVec.add_assoc] at *; assumption)
  case absx =>
    simp only [State.addressReads, List.all_cons, List.all_nil, Bool.and_true, Bool.and_eq_true] at hop
    obtain ⟨h1, h2⟩ := hop
    simp only [addressCycles, fetchAdl, fetchAdh, fetchPtr, fetchAdhIndexed, indexZeroPage, indexPtr, readPtrLow,
      readPtrHigh, readPtrHighIndexed, fetchByte, List.cons_append, List.nil_append]
    rw [runCycles_plain, runCycles_plain]
    · refine ⟨_, ?_, rfl⟩
      constructor
      · simp [Cpu.regs, State.fetched, Cpu.fetchedOpcode, Cpu.incPc, Cpu.indexAdl, hb, memBytes, BitVec.add_assoc]
      all_goals simp [MemMode.latched, MemMode.carries, MemMode.inZeroPage, State.operandAddress, State.uncarriedAddress,
        State.crosses, effectiveAddress, baseHigh, Cpu.fetchedOpcode, Cpu.incPc, Cpu.indexAdl, Cpu.fixHigh_adl, Cpu.fixHigh_adh,
        BitVec.add_assoc, carried_ne, mk16_add]
    all_goals first | exact progOf_ne_none i | (simp [Cpu.fetchedOpcode, Cpu.incPc, Cpu.indexAdl, BitVec.add_assoc] at *; assumption)
  case absy =>
    simp only [State.addressReads, List.all_cons, List.all_nil, Bool.and_true, Bool.and_eq_true] at hop
    obtain ⟨h1, h2⟩ := hop
    simp only [addressCycles, fetchAdl, fetchAdh, fetchPtr, fetchAdhIndexed, indexZeroPage, indexPtr, readPtrLow,
      readPtrHigh, readPtrHighIndexed, fetchByte, List.cons_append, List.nil_append]
    rw [runCycles_plain, runCycles_plain]
    · refine ⟨_, ?_, rfl⟩
      constructor
      · simp [Cpu.regs, State.fetched, Cpu.fetchedOpcode, Cpu.incPc, Cpu.indexAdl, hb, memBytes, BitVec.add_assoc]
      all_goals simp [MemMode.latched, MemMode.carries, MemMode.inZeroPage, State.operandAddress, State.uncarriedAddress,
        State.crosses, effectiveAddress, baseHigh, Cpu.fetchedOpcode, Cpu.incPc, Cpu.indexAdl, Cpu.fixHigh_adl, Cpu.fixHigh_adh,
        BitVec.add_assoc, carried_ne, mk16_add]
    all_goals first | exact progOf_ne_none i | (simp [Cpu.fetchedOpcode, Cpu.incPc, Cpu.indexAdl, BitVec.add_assoc] at *; assumption)
  case izx =>
    simp only [State.addressReads, List.all_cons, List.all_nil, Bool.and_true, Bool.and_eq_true] at hop
    obtain ⟨h1, h2, h3, h4⟩ := hop
    simp only [addressCycles, fetchAdl, fetchAdh, fetchPtr, fetchAdhIndexed, indexZeroPage, indexPtr, readPtrLow,
      readPtrHigh, readPtrHighIndexed, fetchByte, List.cons_append, List.nil_append]
    rw [runCycles_plain, runCycles_plain, runCycles_plain, runCycles_plain]
    · refine ⟨_, ?_, rfl⟩
      constructor
      · simp [Cpu.regs, State.fetched, Cpu.fetchedOpcode, Cpu.incPc, Cpu.indexAdl, hb, memBytes, BitVec.add_assoc]
      all_goals simp [MemMode.latched, MemMode.carries, MemMode.inZeroPage, State.operandAddress, State.uncarriedAddress,
        State.crosses, effectiveAddress, baseHigh, Cpu.fetchedOpcode, Cpu.incPc, Cpu.indexAdl, Cpu.fixHigh_adl, Cpu.fixHigh_adh,
        BitVec.add_assoc, carried_ne, mk16_add]
    all_goals first | exact progOf_ne_none i | (simp [Cpu.fetchedOpcode, Cpu.incPc, Cpu.indexAdl, BitVec.add_assoc] at *; assumption)
  case izy =>
    simp only [State.addressReads, List.all_cons, List.all_nil, Bool.and_true, Bool.and_eq_true] at hop
    obtain ⟨h1, h2, h3⟩ := hop
    simp only [addressCycles, fetchAdl, fetchAdh, fetchPtr, fetchAdhIndexed, indexZeroPage, indexPtr, readPtrLow,
      readPtrHigh, readPtrHighIndexed, fetchByte, List.cons_append, List.nil_append]
    rw [runCycles_plain, runCycles_plain, runCycles_plain]
    · refine ⟨_, ?_, rfl⟩
      constructor
      · simp [Cpu.regs, State.fetched, Cpu.fetchedOpcode, Cpu.incPc, Cpu.indexAdl, hb, memBytes, BitVec.add_assoc]
      all_goals simp [MemMode.latched, MemMode.carries, MemMode.inZeroPage, State.operandAddress, State.uncarriedAddress,
        State.crosses, effectiveAddress, baseHigh, Cpu.fetchedOpcode, Cpu.incPc, Cpu.indexAdl, Cpu.fixHigh_adl, Cpu.fixHigh_adh,
        BitVec.add_assoc, carried_ne, mk16_add]
    all_goals first | exact progOf_ne_none i | (simp [Cpu.fetchedOpcode, Cpu.incPc, Cpu.indexAdl, BitVec.add_assoc] at *; assumption)

/-! ### The access classes -/

theorem AddressReady.prog_ne {s : State} {i : Instr} {m : MemMode} {c : Cpu} (h : AddressReady s i m c) :
    c.prog ≠ .none := by rw [h.prog]; exact progOf_ne_none i

/-- The carry cycle after the address cycles: the dummy read at the un-carried address, then the operand's address in the
latches. -/
theorem runCycles_carry {s : State} {i : Instr} {m : MemMode} {c : Cpu} (hc : AddressReady s i m c)
    (hm : m.carries = true) (rest : List Cycle) :
    ∃ d : Cpu, d.regs = s.fetched i ∧ d.prog = progOf i ∧ m.latched d = s.operandAddress m ∧ d.cross = c.cross ∧
      d.adl = c.adl ∧ d.adh = (if c.cross then c.adh + 1 else c.adh) ∧
      runCycles (carryCycle m :: rest) ((idleTicks (1 + addressTicks m) s).withCpu c) =
        runCycles rest ((s.afterCarry m).withCpu d) := by
  have hl : m.latched c = s.uncarriedAddress m := by rw [hc.latched, if_pos hm]
  refine ⟨{ c.fixHigh with t := c.fixHigh.t + 1 }, ?_, ?_, ?_, ?_, ?_, ?_, ?_⟩
  · exact (Cpu.fixHigh_regs c).trans hc.regs
  · exact (Cpu.fixHigh_prog c).trans hc.prog
  · exact hc.fixed hm
  · exact Cpu.fixHigh_cross c
  · exact Cpu.fixHigh_adl c
  · exact Cpu.fixHigh_adh c
  · rw [carryCycle, runCycles_read _ _ _ _ _ (by rw [Cpu.fixHigh_prog]; exact hc.prog_ne), hl]
    rfl

/-- The CPU at the first cycle at EA of the write and read-modify-write classes. -/
structure StoreReady (s : State) (i : Instr) (m : MemMode) (c : Cpu) : Prop where
  regs : c.regs = s.fetched i
  prog : c.prog = progOf i
  latched : m.latched c = s.operandAddress m
  cross : m.carries = true → c.cross = s.crosses m
  adl : m.carries = true → c.adl = loByte (s.operandAddress m)
  adh : m.carries = true →
    c.adh = if s.crosses m then baseHigh s.peek (s.cpu.pc + 1) m + 1 else baseHigh s.peek (s.cpu.pc + 1) m

/-- The opcode fetch, the address cycles and the carry cycle of the write and read-modify-write classes. -/
theorem runCycles_toStore (s : State) (i : Instr) (m : MemMode) (hb : i.operandBytes = memBytes m)
    (hp : s.codePlain m = true) (rest : List Cycle) :
    ∃ (u : State) (c : Cpu), StoreReady s i m c ∧ beforeCpu u = s.atStore m ∧
      runCycles (fetchCycle i :: (addressCycles m ++ carryCycles m ++ rest)) s = runCycles rest (u.withCpu c) := by
  obtain ⟨c, hc, hrun⟩ := runCycles_address s i m hb hp (carryCycles m ++ rest)
  rw [List.append_assoc, hrun]
  unfold carryCycles State.atStore
  by_cases hm : m.carries = true
  · rw [if_pos hm, if_pos hm]
    obtain ⟨d, hr, hpr, hl, hx, hlo, hhi, hrun2⟩ := runCycles_carry hc hm rest
    refine ⟨s.afterCarry m, d, ⟨hr, hpr, hl, fun _ => hx.trans (hc.cross hm), fun _ => hlo.trans (hc.low hm), ?_⟩, rfl, hrun2⟩
    intro _
    rw [hhi, hc.cross hm, hc.high hm]
  · have hm' : m.carries = false := by simpa using hm
    rw [if_neg hm, if_neg hm]
    refine ⟨idleTicks (1 + addressTicks m) s, c, ⟨hc.regs, hc.prog, hc.flat hm', ?_, ?_, ?_⟩, rfl, rfl⟩
    all_goals exact fun h => absurd h hm

/-- THE WRITE CLASS: the whole run of a write-class body. -/
theorem runCycles_writeBodyAt (s : State) (i : Instr) (m : MemMode) (addr : Cpu → Addr) (out : Cpu → Byte × Cpu)
    (hb : i.operandBytes = memBytes m) (hp : s.codePlain m = true) :
    ∃ c : Cpu, StoreReady s i m c ∧
      runCycles (fetchCycle i :: writeBodyAt m addr out) s =
        finish (busWrite (addr c) (out c).1 (s.atStore m)) { (out c).2 with ea := m.latched c } := by
  obtain ⟨u, c, hc, hu, hrun⟩ := runCycles_toStore s i m hb hp
    [writeCycle endInstr addr (fun c => ((out c).1, { (out c).2 with ea := m.latched c }))]
  refine ⟨c, hc, ?_⟩
  rw [writeBodyAt, hrun, runCycles_lastWrite, hu]

/-- THE READ-MODIFY-WRITE CLASS: the whole run of a read-modify-write body. -/
theorem runCycles_rmwBody (s : State) (i : Instr) (m : MemMode) (f : Cpu → Byte → Byte × Cpu)
    (hb : i.operandBytes = memBytes m) (hp : s.codePlain m = true) :
    ∃ c : Cpu, c.regs = s.fetched i ∧
      runCycles (fetchCycle i :: rmwBody m f) s =
        finish
          (busWrite (s.operandAddress m) (f c (busRead (s.operandAddress m) (s.atStore m)).1).1 (s.atModified m))
          (f c (busRead (s.operandAddress m) (s.atStore m)).1).2 := by
  obtain ⟨u, c, hc, hu, hrun⟩ := runCycles_toStore s i m hb hp [readDataCycle m, writeOldCycle m, writeNewCycle m f]
  have hpn : c.prog ≠ .none := by rw [hc.prog]; exact progOf_ne_none i
  have hl : ∀ d : Cpu, d.adl = c.adl → d.adh = c.adh → m.latched d = s.operandAddress m := by
    intro d h1 h2
    rw [← hc.latched]
    simp only [MemMode.latched, h1, h2]
  rw [rmwBody, hrun, readDataCycle, runCycles_read _ _ _ _ _ (by exact hpn), hc.latched, hu, writeOldCycle,
    runCycles_write _ _ _ _ _ (by exact hpn), hl _ (by rfl) (by rfl), writeNewCycle, runCycles_lastWrite,
    hl _ (by rfl) (by rfl)]
  refine ⟨{ c with
    data := (busRead (s.operandAddress m) (s.atStore m)).1, ea := s.operandAddress m, t := c.t + 1 + 1 }, hc.regs, ?_⟩
  simp only [readTick, hu, State.atModified]

/-- THE READ CLASS: the whole run of a read-class body, its operand read in the machine `operandRead` names. -/
theorem runCycles_readBody (s : State) (i : Instr) (m : MemMode) (act : Byte → Cpu → Cpu)
    (hb : i.operandBytes = memBytes m) (hp : s.codePlain m = true) :
    ∃ c : Cpu, c.regs = s.fetched i ∧
      runCycles (fetchCycle i :: readBody (.mem m) act) s =
        finish (s.operandRead (.mem m)).2 (act (s.operandRead (.mem m)).1 c) := by
  obtain ⟨c, hc, hrun⟩ := runCycles_address s i m hb hp
    (if m.carries then [uncarriedCycle m act, operandCycle m act] else [operandCycle m act])
  have key : ∀ (u : State) (d : Cpu) (cs : List Cycle), d.regs = s.fetched i → m.latched d = s.operandAddress m →
      ∃ c' : Cpu, c'.regs = s.fetched i ∧ runCycles (operandCycle m act :: cs) (u.withCpu d) =
        finish (busRead (s.operandAddress m) (beforeCpu u)).2 (act (busRead (s.operandAddress m) (beforeCpu u)).1 c') := by
    intro u d cs hr hl
    refine ⟨{ d with data := (busRead (s.operandAddress m) (beforeCpu u)).1, ea := m.latched d }, hr, ?_⟩
    rw [operandCycle, runCycles_lastRead, hl]
  unfold readBody
  dsimp only
  rw [hrun]
  by_cases hm : m.carries = true
  · rw [if_pos hm]
    by_cases hx : s.crosses m = true
    · have : runCycles [uncarriedCycle m act, operandCycle m act] ((idleTicks (1 + addressTicks m) s).withCpu c) =
          runCycles [carryCycle m, operandCycle m act] ((idleTicks (1 + addressTicks m) s).withCpu c) := by
        have : uncarriedCycle m act (beforeCpu ((idleTicks (1 + addressTicks m) s).withCpu c)) =
            carryCycle m (beforeCpu ((idleTicks (1 + addressTicks m) s).withCpu c)) := by
          simp only [uncarriedCycle, beforeCpu_cpu, State.withCpu_cpu, hc.cross hm, hx, if_true]
        exact runCycles_congr this _
      rw [this]
      obtain ⟨d, hr, -, hl, -, -, -, hrun2⟩ := runCycles_carry hc hm [operandCycle m act]
      rw [hrun2]
      obtain ⟨c', hc', h⟩ := key (s.afterCarry m) d [] hr hl
      refine ⟨c', hc', ?_⟩
      rw [h]
      simp only [State.operandRead, State.atOperand, hx, if_true]
    · have hx' : s.crosses m = false := by simpa using hx
      have hua : s.uncarriedAddress m = s.operandAddress m := by
        have := hx'
        unfold State.crosses at this
        rw [hm] at this
        simpa using this
      have : runCycles [uncarriedCycle m act, operandCycle m act] ((idleTicks (1 + addressTicks m) s).withCpu c) =
          runCycles [operandCycle m act, operandCycle m act] ((idleTicks (1 + addressTicks m) s).withCpu c) := by
        have : uncarriedCycle m act (beforeCpu ((idleTicks (1 + addressTicks m) s).withCpu c)) =
            operandCycle m act (beforeCpu ((idleTicks (1 + addressTicks m) s).withCpu c)) := by
          simp only [uncarriedCycle, beforeCpu_cpu, State.withCpu_cpu, hc.cross hm, hx', Bool.false_eq_true, if_false]
        exact runCycles_congr this _
      rw [this]
      obtain ⟨c', hc', h⟩ := key (idleTicks (1 + addressTicks m) s) c [operandCycle m act] hc.regs
        (by rw [hc.latched, if_pos hm, hua])
      refine ⟨c', hc', ?_⟩
      rw [h]
      simp only [State.operandRead, State.atOperand, hx', Bool.false_eq_true, if_false]
  · have hm' : m.carries = false := by simpa using hm
    rw [if_neg hm]
    obtain ⟨c', hc', h⟩ := key (idleTicks (1 + addressTicks m) s) c [] hc.regs (hc.flat hm')
    refine ⟨c', hc', ?_⟩
    rw [h]
    have hx : s.crosses m = false := by unfold State.crosses; rw [hm']; rfl
    simp only [State.operandRead, State.atOperand, hx, Bool.false_eq_true, if_false]

/-- The read class with an immediate operand. -/
theorem runCycles_readImmediate (s : State) (i : Instr) (act : Byte → Cpu → Cpu) (hb : i.operandBytes = 1)
    (hp : s.readPlain .imm = true) :
    ∃ c : Cpu, c.regs = s.fetched i ∧
      runCycles (fetchCycle i :: readBody .imm act) s =
        finish (s.operandRead .imm).2 (act (s.operandRead .imm).1 c) := by
  simp only [State.readPlain, Bool.and_eq_true] at hp
  obtain ⟨h0, h1⟩ := hp
  rw [runCycles_fetch_plain i _ h0]
  simp only [readBody, fetchByte]
  rw [runCycles_lastRead]
  have hpc : (s.cpu.fetchedOpcode s.cfg i).pc = s.cpu.pc + 1 := rfl
  have hv : (busRead (s.cpu.pc + 1) (beforeCpu (idleTicks 1 s))).1 = s.peek (s.cpu.pc + 1) := peek_before_idle h1 1
  have hst : (busRead (s.cpu.pc + 1) (beforeCpu (idleTicks 1 s))).2 = beforeCpu (idleTicks 1 s) :=
    busRead_plain_state ((plainAt_before_idle s _ 1).trans h1)
  simp only [hpc, hv, hst]
  refine ⟨{ (s.cpu.fetchedOpcode s.cfg i).incPc with data := s.peek (s.cpu.pc + 1) }, ?_, rfl⟩
  simp [Cpu.regs, State.fetched, Cpu.fetchedOpcode, Cpu.incPc, hb]

end Sys2Proof.Machine
end

