-- ==== Sys2Proof/Laws/Complete.lean ====
section
/-! SUPPORT. From a class of instruction bodies to its completion: one lemma per class, each reducing `Completes…` to what
the semantic action does to the registers; and the registers after the shared loads. -/

namespace Sys2Proof.Machine

open Sys2Proof

/-! ### Registers after the shared operations -/

theorem top_bit (v : Byte) : v.getLsbD 7 = decide (128 ≤ v.toNat) := by revert v; decide

theorem beq_zero (v : Byte) : (v == 0) = decide (v = 0) := rfl

theorem Cpu.setNZ_regs (c : Cpu) (v : Byte) : (c.setNZ v).regs = c.regs.setNZ v := by
  unfold Cpu.setNZ Regs.setNZ Cpu.regs
  rw [top_bit, beq_zero]

theorem Cpu.loadA_regs (c : Cpu) (v : Byte) : (c.loadA v).regs = { c.regs with a := v }.setNZ v := by
  unfold Cpu.loadA; rw [Cpu.setNZ_regs]; rfl

theorem Cpu.loadX_regs (c : Cpu) (v : Byte) : (c.loadX v).regs = { c.regs with x := v }.setNZ v := by
  unfold Cpu.loadX; rw [Cpu.setNZ_regs]; rfl

theorem Cpu.loadY_regs (c : Cpu) (v : Byte) : (c.loadY v).regs = { c.regs with y := v }.setNZ v := by
  unfold Cpu.loadY; rw [Cpu.setNZ_regs]; rfl

/-- What `setNZ` of a register file leaves. -/
theorem Regs.setNZ_eq (r : Regs) (v : Byte) : r.setNZ v = { r with n := decide (128 ≤ v.toNat), z := decide (v = 0) } := rfl

/-! ### The classes -/

/-- How many operand bytes a read mode takes. -/
def readBytes : ReadMode → Nat
  | .imm => 1
  | .mem m => memBytes m

theorem completesReading_of {i : Instr} {m : ReadMode} {act : Byte → Cpu → Cpu} {eff : Byte → Regs → Regs} {s : State}
    (hx : exec i s = runInstr i (readBody m act) s) (hb : i.operandBytes = readBytes m) (hp : s.readPlain m = true)
    (he : ∀ v c, c.regs = s.fetched i → (act v c).regs = eff v c.regs) : CompletesReading i m eff s := by
  cases m with
  | imm =>
    obtain ⟨c, hc, hr⟩ := runCycles_readImmediate s i act hb hp
    exact ⟨_, by rw [he _ c hc, hc], by rw [hx]; simp only [runInstr, hr]⟩
  | mem m =>
    obtain ⟨c, hc, hr⟩ := runCycles_readBody s i m act hb hp
    exact ⟨_, by rw [he _ c hc, hc], by rw [hx]; simp only [runInstr, hr]⟩

theorem completesStoring_of {i : Instr} {m : MemMode} {addr : Cpu → Addr} {out : Cpu → Byte × Cpu} {target : Addr}
    {value : Byte} {eff : Regs → Regs} {s : State} (hx : exec i s = runInstr i (writeBodyAt m addr out) s)
    (hb : i.operandBytes = memBytes m) (hp : s.codePlain m = true)
    (he : ∀ c, StoreReady s i m c → addr c = target ∧ (out c).1 = value ∧ (out c).2.regs = eff c.regs) :
    CompletesStoring i m target value eff s := by
  obtain ⟨c, hc, hr⟩ := runCycles_writeBodyAt s i m addr out hb hp
  obtain ⟨h1, h2, h3⟩ := he c hc
  refine ⟨{ (out c).2 with ea := m.latched c }, ?_, ?_⟩
  · rw [← hc.regs, ← h3]; rfl
  · rw [hx, runInstr, hr, h1, h2]

theorem completesModifying_of {i : Instr} {m : MemMode} {f : Cpu → Byte → Byte × Cpu} {value : Byte → Byte}
    {eff : Byte → Regs → Regs} {s : State} (hx : exec i s = runInstr i (rmwBody m f) s)
    (hb : i.operandBytes = memBytes m) (hp : s.codePlain m = true)
    (he : ∀ v c, c.regs = s.fetched i → (f c v).1 = value v ∧ (f c v).2.regs = eff v c.regs) :
    CompletesModifying i m value eff s := by
  obtain ⟨c, hc, hr⟩ := runCycles_rmwBody s i m f hb hp
  obtain ⟨h1, h2⟩ := he (busRead (s.operandAddress m) (s.atStore m)).1 c hc
  refine ⟨(f c (busRead (s.operandAddress m) (s.atStore m)).1).2, by rw [h2, hc], ?_⟩
  rw [hx, runInstr, hr, h1]

/-- The registers after the opcode fetch of an instruction with no operand byte. -/
theorem Cpu.fetchedOpcode_regs {s : State} {i : Instr} (hb : i.operandBytes = 0) :
    (s.cpu.fetchedOpcode s.cfg i).regs = s.fetched i := by
  simp [Cpu.fetchedOpcode, Cpu.regs, State.fetched, hb, Cpu.incPc]

theorem completesImplied_of {i : Instr} {act : Cpu → Cpu} {eff : Regs → Regs} {s : State}
    (hx : exec i s = runInstr i (impliedBody act) s) (hb : i.operandBytes = 0)
    (he : ∀ c, c.regs = s.fetched i → (act c).regs = eff c.regs) : CompletesImplied i eff s := by
  have hr := Cpu.fetchedOpcode_regs (s := s) hb
  refine ⟨act (s.cpu.fetchedOpcode s.cfg i), by rw [he _ hr, hr], ?_⟩
  rw [hx, runInstr, runCycles_fetch, impliedBody, runCycles_lastRead]
  rfl

end Sys2Proof.Machine
end

