-- ==== Sys2Proof/Laws/PerInstr.lean ====
section
/-! SUPPORT. The encoding of every instruction, constructor by constructor: a well-formed instruction other than TRAP is the
one its own opcode byte decodes to, and its operands fit in the longest instruction. -/

namespace Sys2Proof.Laws.DecodeEncode

open Sys2Proof

/-- The opcode of the Encoding line (rules R300 to R454) is the instruction's place in the opcode map (rule R200), and the
instruction is at most three bytes long (rule R171). -/
def Statement (i : Instr) : Prop :=
  i.operandBytes + 1 ≤ maxInstrBytes ∧ (i.wellFormed = true → i ≠ .trap → decodeOpcode i.opcode = i)

theorem lda (m : AluMode) : Statement (.lda m) := by cases m <;> unfold Statement <;> decide
theorem ldx (m : LdxMode) : Statement (.ldx m) := by cases m <;> unfold Statement <;> decide
theorem ldy (m : LdyMode) : Statement (.ldy m) := by cases m <;> unfold Statement <;> decide
theorem sta (m : StoreMode) : Statement (.sta m) := by cases m <;> unfold Statement <;> decide
theorem stx (m : StxMode) : Statement (.stx m) := by cases m <;> unfold Statement <;> decide
theorem sty (m : StyMode) : Statement (.sty m) := by cases m <;> unfold Statement <;> decide
theorem tax : Statement .tax := by unfold Statement; decide
theorem tay : Statement .tay := by unfold Statement; decide
theorem txa : Statement .txa := by unfold Statement; decide
theorem tya : Statement .tya := by unfold Statement; decide
theorem tsx : Statement .tsx := by unfold Statement; decide
theorem txs : Statement .txs := by unfold Statement; decide
theorem pha : Statement .pha := by unfold Statement; decide
theorem php : Statement .php := by unfold Statement; decide
theorem pla : Statement .pla := by unfold Statement; decide
theorem plp : Statement .plp := by unfold Statement; decide
theorem adc (m : AluMode) : Statement (.adc m) := by cases m <;> unfold Statement <;> decide
theorem sbc (m : AluMode) : Statement (.sbc m) := by cases m <;> unfold Statement <;> decide
theorem and (m : AluMode) : Statement (.and m) := by cases m <;> unfold Statement <;> decide
theorem ora (m : AluMode) : Statement (.ora m) := by cases m <;> unfold Statement <;> decide
theorem eor (m : AluMode) : Statement (.eor m) := by cases m <;> unfold Statement <;> decide
theorem cmp (m : AluMode) : Statement (.cmp m) := by cases m <;> unfold Statement <;> decide
theorem cpx (m : CpxMode) : Statement (.cpx m) := by cases m <;> unfold Statement <;> decide
theorem cpy (m : CpxMode) : Statement (.cpy m) := by cases m <;> unfold Statement <;> decide
theorem bit (m : BitMode) : Statement (.bit m) := by cases m <;> unfold Statement <;> decide
theorem inc (m : IncMode) : Statement (.inc m) := by cases m <;> unfold Statement <;> decide
theorem dec (m : IncMode) : Statement (.dec m) := by cases m <;> unfold Statement <;> decide
theorem inx : Statement .inx := by unfold Statement; decide
theorem iny : Statement .iny := by unfold Statement; decide
theorem dex : Statement .dex := by unfold Statement; decide
theorem dey : Statement .dey := by unfold Statement; decide
theorem asl (m : ShiftMode) : Statement (.asl m) := by cases m <;> unfold Statement <;> decide
theorem lsr (m : ShiftMode) : Statement (.lsr m) := by cases m <;> unfold Statement <;> decide
theorem rol (m : ShiftMode) : Statement (.rol m) := by cases m <;> unfold Statement <;> decide
theorem ror (m : ShiftMode) : Statement (.ror m) := by cases m <;> unfold Statement <;> decide
theorem bpl : Statement .bpl := by unfold Statement; decide
theorem bmi : Statement .bmi := by unfold Statement; decide
theorem bvc : Statement .bvc := by unfold Statement; decide
theorem bvs : Statement .bvs := by unfold Statement; decide
theorem bcc : Statement .bcc := by unfold Statement; decide
theorem bcs : Statement .bcs := by unfold Statement; decide
theorem bne : Statement .bne := by unfold Statement; decide
theorem beq : Statement .beq := by unfold Statement; decide
theorem jmp (m : JmpMode) : Statement (.jmp m) := by cases m <;> unfold Statement <;> decide
theorem jsr : Statement .jsr := by unfold Statement; decide
theorem rts : Statement .rts := by unfold Statement; decide
theorem brk : Statement .brk := by unfold Statement; decide
theorem rti : Statement .rti := by unfold Statement; decide
theorem clc : Statement .clc := by unfold Statement; decide
theorem sec : Statement .sec := by unfold Statement; decide
theorem cli : Statement .cli := by unfold Statement; decide
theorem sei : Statement .sei := by unfold Statement; decide
theorem cld : Statement .cld := by unfold Statement; decide
theorem sed : Statement .sed := by unfold Statement; decide
theorem clv : Statement .clv := by unfold Statement; decide
theorem nop : Statement .nop := by unfold Statement; decide
theorem jam (op : Byte) : Statement (.jam op) := by revert op; unfold Statement; decide
theorem nopUndoc (m : NopMode) (op : Byte) : Statement (.nopUndoc m op) := by revert op; cases m <;> unfold Statement <;> decide
theorem slo (m : StoreMode) : Statement (.slo m) := by cases m <;> unfold Statement <;> decide
theorem rla (m : StoreMode) : Statement (.rla m) := by cases m <;> unfold Statement <;> decide
theorem sre (m : StoreMode) : Statement (.sre m) := by cases m <;> unfold Statement <;> decide
theorem rra (m : StoreMode) : Statement (.rra m) := by cases m <;> unfold Statement <;> decide
theorem sax (m : SaxMode) : Statement (.sax m) := by cases m <;> unfold Statement <;> decide
theorem lax (m : LaxMode) : Statement (.lax m) := by cases m <;> unfold Statement <;> decide
theorem dcp (m : StoreMode) : Statement (.dcp m) := by cases m <;> unfold Statement <;> decide
theorem isc (m : StoreMode) : Statement (.isc m) := by cases m <;> unfold Statement <;> decide
theorem anc (op : Byte) : Statement (.anc op) := by revert op; unfold Statement; decide
theorem alr : Statement .alr := by unfold Statement; decide
theorem arr : Statement .arr := by unfold Statement; decide
theorem sbx : Statement .sbx := by unfold Statement; decide
theorem usbc : Statement .usbc := by unfold Statement; decide
theorem las : Statement .las := by unfold Statement; decide
theorem ane : Statement .ane := by unfold Statement; decide
theorem lxa : Statement .lxa := by unfold Statement; decide
theorem sha (m : ShaMode) : Statement (.sha m) := by cases m <;> unfold Statement <;> decide
theorem shx : Statement .shx := by unfold Statement; decide
theorem shy : Statement .shy := by unfold Statement; decide
theorem tas : Statement .tas := by unfold Statement; decide
theorem trap : Statement .trap := by refine ⟨by decide, fun _ h => absurd rfl h⟩

end Sys2Proof.Laws.DecodeEncode
end

