-- ==== Sys2Proof/Tests/Slice0.lean ====
section
/-! SUPPORT. Small tests. Their expected results come from the spec: the decoding tests from the Encoding line of each
instruction's rule (spec files 40 to 46), the tests of one step from the vectors of spec/95_test_vectors.md, whose number
each name ends in, or from the example of the rule a comment names. The witnesses at the end show, for every statement with
hypotheses, concrete values that meet them. -/

namespace Sys2Proof.Tests

open Sys2Proof Sys2Proof.Machine

/-! ### Ill-formed terms -/

theorem test_jam_with_another_opcode_is_ill_formed : (Instr.jam 0x03).wellFormed = false := by decide
theorem test_anc_with_another_opcode_is_ill_formed : (Instr.anc 0x4B).wellFormed = false := by decide
theorem test_nop_with_another_opcode_is_ill_formed :
    [Instr.nopUndoc .imp 0xEA, .nopUndoc .imm 0x04, .nopUndoc .zp 0x14, .nopUndoc .zpx 0x04, .nopUndoc .abs 0x1C].all
      (fun i => !i.wellFormed) = true := by decide
theorem test_nop_absx_with_another_opcode_is_ill_formed : (Instr.nopUndoc .absx 0x9C).wellFormed = false := by decide
theorem test_missing_operand_is_ill_formed : (Code.mk (.lda .abs) [0x34]).wellFormed = false := by decide
theorem test_surplus_operand_is_ill_formed : (Code.mk .tax [0x34]).wellFormed = false := by decide
theorem test_ill_formed_instr_makes_ill_formed_code : (Code.mk (.jam 0xEA) []).wellFormed = false := by decide

/-! ### Decoding: every constructor, words written from the Encoding lines, operand bytes 34 12 -/

/-- Every word decodes to the instruction beside it. -/
def decodes (rows : List (Nat × Nat × Instr)) : Bool := rows.all (fun r => decide (decodeTableWord r.1 r.2.1 = some r.2.2))

theorem test_decode_refuses_no_bytes : decode [] = .error .noOpcode := by decide
theorem test_decode_refuses_a_missing_operand : decode [0xAD, 0x34] = .error (.operandsMissing 0xAD) := by decide

theorem test_decode_lda :
    decodes [(16, 0x34A9, .lda .imm), (16, 0x34A5, .lda .zp), (16, 0x34B5, .lda .zpx), (24, 0x1234AD, .lda .abs),
      (24, 0x1234BD, .lda .absx), (24, 0x1234B9, .lda .absy), (16, 0x34A1, .lda .izx),
      (16, 0x34B1, .lda .izy)] = true := by decide
theorem test_decode_ldx :
    decodes [(16, 0x34A2, .ldx .imm), (16, 0x34A6, .ldx .zp), (16, 0x34B6, .ldx .zpy), (24, 0x1234AE, .ldx .abs),
      (24, 0x1234BE, .ldx .absy)] = true := by decide
theorem test_decode_ldy :
    decodes [(16, 0x34A0, .ldy .imm), (16, 0x34A4, .ldy .zp), (16, 0x34B4, .ldy .zpx), (24, 0x1234AC, .ldy .abs),
      (24, 0x1234BC, .ldy .absx)] = true := by decide
theorem test_decode_sta :
    decodes [(16, 0x3485, .sta .zp), (16, 0x3495, .sta .zpx), (24, 0x12348D, .sta .abs), (24, 0x12349D, .sta .absx),
      (24, 0x123499, .sta .absy), (16, 0x3481, .sta .izx), (16, 0x3491, .sta .izy)] = true := by decide
theorem test_decode_stx :
    decodes [(16, 0x3486, .stx .zp), (16, 0x3496, .stx .zpy), (24, 0x12348E, .stx .abs)] = true := by decide
theorem test_decode_sty :
    decodes [(16, 0x3484, .sty .zp), (16, 0x3494, .sty .zpx), (24, 0x12348C, .sty .abs)] = true := by decide
theorem test_decode_transfers_and_stack :
    decodes [(8, 0xAA, .tax), (8, 0xA8, .tay), (8, 0x8A, .txa), (8, 0x98, .tya), (8, 0xBA, .tsx), (8, 0x9A, .txs),
      (8, 0x48, .pha), (8, 0x08, .php), (8, 0x68, .pla), (8, 0x28, .plp)] = true := by decide
theorem test_decode_adc :
    decodes [(16, 0x3469, .adc .imm), (16, 0x3465, .adc .zp), (16, 0x3475, .adc .zpx), (24, 0x12346D, .adc .abs),
      (24, 0x12347D, .adc .absx), (24, 0x123479, .adc .absy), (16, 0x3461, .adc .izx),
      (16, 0x3471, .adc .izy)] = true := by decide
theorem test_decode_sbc :
    decodes [(16, 0x34E9, .sbc .imm), (16, 0x34E5, .sbc .zp), (16, 0x34F5, .sbc .zpx), (24, 0x1234ED, .sbc .abs),
      (24, 0x1234FD, .sbc .absx), (24, 0x1234F9, .sbc .absy), (16, 0x34E1, .sbc .izx),
      (16, 0x34F1, .sbc .izy)] = true := by decide
theorem test_decode_and :
    decodes [(16, 0x3429, .and .imm), (16, 0x3425, .and .zp), (16, 0x3435, .and .zpx), (24, 0x12342D, .and .abs),
      (24, 0x12343D, .and .absx), (24, 0x123439, .and .absy), (16, 0x3421, .and .izx),
      (16, 0x3431, .and .izy)] = true := by decide
theorem test_decode_ora :
    decodes [(16, 0x3409, .ora .imm), (16, 0x3405, .ora .zp), (16, 0x3415, .ora .zpx), (24, 0x12340D, .ora .abs),
      (24, 0x12341D, .ora .absx), (24, 0x123419, .ora .absy), (16, 0x3401, .ora .izx),
      (16, 0x3411, .ora .izy)] = true := by decide
theorem test_decode_eor :
    decodes [(16, 0x3449, .eor .imm), (16, 0x3445, .eor .zp), (16, 0x3455, .eor .zpx), (24, 0x12344D, .eor .abs),
      (24, 0x12345D, .eor .absx), (24, 0x123459, .eor .absy), (16, 0x3441, .eor .izx),
      (16, 0x3451, .eor .izy)] = true := by decide
theorem test_decode_cmp :
    decodes [(16, 0x34C9, .cmp .imm), (16, 0x34C5, .cmp .zp), (16, 0x34D5, .cmp .zpx), (24, 0x1234CD, .cmp .abs),
      (24, 0x1234DD, .cmp .absx), (24, 0x1234D9, .cmp .absy), (16, 0x34C1, .cmp .izx),
      (16, 0x34D1, .cmp .izy)] = true := by decide
theorem test_decode_cpx :
    decodes [(16, 0x34E0, .cpx .imm), (16, 0x34E4, .cpx .zp), (24, 0x1234EC, .cpx .abs)] = true := by decide
theorem test_decode_cpy :
    decodes [(16, 0x34C0, .cpy .imm), (16, 0x34C4, .cpy .zp), (24, 0x1234CC, .cpy .abs)] = true := by decide
theorem test_decode_bit : decodes [(16, 0x3424, .bit .zp), (24, 0x12342C, .bit .abs)] = true := by decide
theorem test_decode_inc :
    decodes [(16, 0x34E6, .inc .zp), (16, 0x34F6, .inc .zpx), (24, 0x1234EE, .inc .abs),
      (24, 0x1234FE, .inc .absx)] = true := by decide
theorem test_decode_dec :
    decodes [(16, 0x34C6, .dec .zp), (16, 0x34D6, .dec .zpx), (24, 0x1234CE, .dec .abs),
      (24, 0x1234DE, .dec .absx)] = true := by decide
theorem test_decode_register_increments :
    decodes [(8, 0xE8, .inx), (8, 0xC8, .iny), (8, 0xCA, .dex), (8, 0x88, .dey)] = true := by decide
theorem test_decode_asl :
    decodes [(8, 0x0A, .asl .acc), (16, 0x3406, .asl .zp), (16, 0x3416, .asl .zpx), (24, 0x12340E, .asl .abs),
      (24, 0x12341E, .asl .absx)] = true := by decide
theorem test_decode_lsr :
    decodes [(8, 0x4A, .lsr .acc), (16, 0x3446, .lsr .zp), (16, 0x3456, .lsr .zpx), (24, 0x12344E, .lsr .abs),
      (24, 0x12345E, .lsr .absx)] = true := by decide
theorem test_decode_rol :
    decodes [(8, 0x2A, .rol .acc), (16, 0x3426, .rol .zp), (16, 0x3436, .rol .zpx), (24, 0x12342E, .rol .abs),
      (24, 0x12343E, .rol .absx)] = true := by decide
theorem test_decode_ror :
    decodes [(8, 0x6A, .ror .acc), (16, 0x3466, .ror .zp), (16, 0x3476, .ror .zpx), (24, 0x12346E, .ror .abs),
      (24, 0x12347E, .ror .absx)] = true := by decide
theorem test_decode_branches :
    decodes [(16, 0x3410, .bpl), (16, 0x3430, .bmi), (16, 0x3450, .bvc), (16, 0x3470, .bvs), (16, 0x3490, .bcc),
      (16, 0x34B0, .bcs), (16, 0x34D0, .bne), (16, 0x34F0, .beq)] = true := by decide
theorem test_decode_jmp : decodes [(24, 0x12344C, .jmp .abs), (24, 0x12346C, .jmp .ind)] = true := by decide
theorem test_decode_subroutines_and_interrupts :
    decodes [(24, 0x123420, .jsr), (8, 0x60, .rts), (16, 0x3400, .brk), (8, 0x40, .rti), (8, 0x18, .clc),
      (8, 0x38, .sec), (8, 0x58, .cli), (8, 0x78, .sei), (8, 0xD8, .cld), (8, 0xF8, .sed), (8, 0xB8, .clv),
      (8, 0xEA, .nop)] = true := by decide
theorem test_decode_jam :
    decodes [(8, 0x02, .jam 0x02), (8, 0x12, .jam 0x12), (8, 0x22, .jam 0x22), (8, 0x32, .jam 0x32),
      (8, 0x42, .jam 0x42), (8, 0x52, .jam 0x52), (8, 0x62, .jam 0x62), (8, 0x72, .jam 0x72), (8, 0x92, .jam 0x92),
      (8, 0xB2, .jam 0xB2), (8, 0xD2, .jam 0xD2), (8, 0xF2, .jam 0xF2)] = true := by decide
theorem test_decode_nopUndoc_imp :
    decodes [(8, 0x1A, .nopUndoc .imp 0x1A), (8, 0x3A, .nopUndoc .imp 0x3A), (8, 0x5A, .nopUndoc .imp 0x5A),
      (8, 0x7A, .nopUndoc .imp 0x7A), (8, 0xDA, .nopUndoc .imp 0xDA),
      (8, 0xFA, .nopUndoc .imp 0xFA)] = true := by decide
theorem test_decode_nopUndoc_imm :
    decodes [(16, 0x3480, .nopUndoc .imm 0x80), (16, 0x3482, .nopUndoc .imm 0x82),
      (16, 0x3489, .nopUndoc .imm 0x89), (16, 0x34C2, .nopUndoc .imm 0xC2),
      (16, 0x34E2, .nopUndoc .imm 0xE2)] = true := by decide
theorem test_decode_nopUndoc_zp :
    decodes [(16, 0x3404, .nopUndoc .zp 0x04), (16, 0x3444, .nopUndoc .zp 0x44),
      (16, 0x3464, .nopUndoc .zp 0x64)] = true := by decide
theorem test_decode_nopUndoc_zpx :
    decodes [(16, 0x3414, .nopUndoc .zpx 0x14), (16, 0x3434, .nopUndoc .zpx 0x34),
      (16, 0x3454, .nopUndoc .zpx 0x54), (16, 0x3474, .nopUndoc .zpx 0x74), (16, 0x34D4, .nopUndoc .zpx 0xD4),
      (16, 0x34F4, .nopUndoc .zpx 0xF4)] = true := by decide
theorem test_decode_nopUndoc_abs : decodes [(24, 0x12340C, .nopUndoc .abs 0x0C)] = true := by decide
theorem test_decode_nopUndoc_absx :
    decodes [(24, 0x12341C, .nopUndoc .absx 0x1C), (24, 0x12343C, .nopUndoc .absx 0x3C),
      (24, 0x12345C, .nopUndoc .absx 0x5C), (24, 0x12347C, .nopUndoc .absx 0x7C), (24, 0x1234DC, .nopUndoc .absx 0xDC),
      (24, 0x1234FC, .nopUndoc .absx 0xFC)] = true := by decide
theorem test_decode_slo :
    decodes [(16, 0x3407, .slo .zp), (16, 0x3417, .slo .zpx), (24, 0x12340F, .slo .abs), (24, 0x12341F, .slo .absx),
      (24, 0x12341B, .slo .absy), (16, 0x3403, .slo .izx), (16, 0x3413, .slo .izy)] = true := by decide
theorem test_decode_rla :
    decodes [(16, 0x3427, .rla .zp), (16, 0x3437, .rla .zpx), (24, 0x12342F, .rla .abs), (24, 0x12343F, .rla .absx),
      (24, 0x12343B, .rla .absy), (16, 0x3423, .rla .izx), (16, 0x3433, .rla .izy)] = true := by decide
theorem test_decode_sre :
    decodes [(16, 0x3447, .sre .zp), (16, 0x3457, .sre .zpx), (24, 0x12344F, .sre .abs), (24, 0x12345F, .sre .absx),
      (24, 0x12345B, .sre .absy), (16, 0x3443, .sre .izx), (16, 0x3453, .sre .izy)] = true := by decide
theorem test_decode_rra :
    decodes [(16, 0x3467, .rra .zp), (16, 0x3477, .rra .zpx), (24, 0x12346F, .rra .abs), (24, 0x12347F, .rra .absx),
      (24, 0x12347B, .rra .absy), (16, 0x3463, .rra .izx), (16, 0x3473, .rra .izy)] = true := by decide
theorem test_decode_sax :
    decodes [(16, 0x3487, .sax .zp), (16, 0x3497, .sax .zpy), (24, 0x12348F, .sax .abs),
      (16, 0x3483, .sax .izx)] = true := by decide
theorem test_decode_lax :
    decodes [(16, 0x34A7, .lax .zp), (16, 0x34B7, .lax .zpy), (24, 0x1234AF, .lax .abs), (24, 0x1234BF, .lax .absy),
      (16, 0x34A3, .lax .izx), (16, 0x34B3, .lax .izy)] = true := by decide
theorem test_decode_dcp :
    decodes [(16, 0x34C7, .dcp .zp), (16, 0x34D7, .dcp .zpx), (24, 0x1234CF, .dcp .abs), (24, 0x1234DF, .dcp .absx),
      (24, 0x1234DB, .dcp .absy), (16, 0x34C3, .dcp .izx), (16, 0x34D3, .dcp .izy)] = true := by decide
theorem test_decode_isc :
    decodes [(16, 0x34E7, .isc .zp), (16, 0x34F7, .isc .zpx), (24, 0x1234EF, .isc .abs), (24, 0x1234FF, .isc .absx),
      (24, 0x1234FB, .isc .absy), (16, 0x34E3, .isc .izx), (16, 0x34F3, .isc .izy)] = true := by decide
theorem test_decode_anc : decodes [(16, 0x340B, .anc 0x0B), (16, 0x342B, .anc 0x2B)] = true := by decide
theorem test_decode_undocumented_immediates :
    decodes [(16, 0x344B, .alr), (16, 0x346B, .arr), (16, 0x34CB, .sbx), (16, 0x34EB, .usbc), (24, 0x1234BB, .las),
      (16, 0x348B, .ane), (16, 0x34AB, .lxa)] = true := by decide
theorem test_decode_sha : decodes [(16, 0x3493, .sha .izy), (24, 0x12349F, .sha .absy)] = true := by decide
theorem test_decode_unstable_stores :
    decodes [(24, 0x12349E, .shx), (24, 0x12349C, .shy), (24, 0x12349B, .tas)] = true := by decide

/-! ### One step: the machine the vectors of spec/95_test_vectors.md assume -/

/-- The parameters of spec/95_test_vectors.md, section 0. -/
def vectorCfg : MachineCfg :=
  { variant := .pal, hOffset := 0, vOffset := 0, vblankLines := 0, visibleWidth := 0, visibleHeight := 0, float := 0xFF,
    ioDecode := [], mem := MemConfig.unexpanded, undocNop := defaultUndocNop, bcdNV := .clear, trapOpcode := 0xFF,
    aneMagic := 0, lxaMagic := 0 }

/-- The same with every undocumented opcode at the policy REFERENCE and the given constants. -/
def referenceCfg : MachineCfg := { vectorCfg with undocNop := [], aneMagic := 0xEE, lxaMagic := 0xEE }

/-- A machine of those parameters with the code at PC, further memory cells and register overrides. -/
def machineOf (k : MachineCfg) (at_ : Addr) (code : List Byte) (cells : List (Addr × Byte)) (set : Cpu → Cpu) : State :=
  { State.reset with
    cfg := k, mem := cells.foldl (fun m e => rawWrite m e.1 e.2) (rawWriteBytes [] at_ code), cpu := set (Cpu.reset at_) }

/-- That machine at 0x1000. -/
def machine (code : List Byte) (cells : List (Addr × Byte)) (set : Cpu → Cpu) : State :=
  machineOf vectorCfg 0x1000 code cells set

/-- One step answers a next state with the given property. -/
def leaves (s : State) (p : State → Bool) : Bool :=
  match step s with
  | .next t => p t
  | .fault _ | .refused _ => false

theorem test_lda_v_ls_4 :
    leaves (machine [0xBD, 0x00, 0x10] [] (fun c => { c with x := 0x01 }))
      (fun t => t.cpu.z && rawRead t.mem 0x1001 == 0x00) = true := by decide
theorem test_ldx_v_ls_6 :
    leaves (machine [0xA2, 0x00] [] (fun c => { c with x := 0x33 }))
      (fun t => t.cpu.x == 0x00 && t.cpu.z && !t.cpu.n) = true := by decide
theorem test_ldx_v_ls_7 :
    leaves (machine [0xB6, 0xF0] [(0x000F, 0x80)] (fun c => { c with y := 0x1F }))
      (fun t => t.cpu.x == 0x80 && t.cpu.n) = true := by decide
theorem test_ldy_v_ls_8 :
    leaves (machine [0xA4, 0x10] [(0x0010, 0x7F)] id)
      (fun t => t.cpu.y == 0x7F && !t.cpu.n && !t.cpu.z) = true := by decide
theorem test_sta_v_ls_9 :
    leaves (machine [0x8D, 0x00, 0x11] [] (fun c => { c with a := 0x42 }))
      (fun t => rawRead t.mem 0x1100 == 0x42) = true := by decide
theorem test_stx_v_ls_12 :
    leaves (machine [0x86, 0x20] [] (fun c => { c with x := 0x05 }))
      (fun t => rawRead t.mem 0x0020 == 0x05) = true := by decide
theorem test_sty_v_ls_13 :
    leaves (machine [0x8C, 0x34, 0x12] [] (fun c => { c with y := 0x99 }))
      (fun t => rawRead t.mem 0x1234 == 0x99) = true := by decide
theorem test_tax_v_ts_1 :
    leaves (machine [0xAA] [] (fun c => { c with a := 0x80 }))
      (fun t => t.cpu.x == 0x80 && t.cpu.n && !t.cpu.z) = true := by decide
theorem test_tay_v_ts_2 :
    leaves (machine [0xA8] [] (fun c => { c with a := 0x00, y := 0x12 }))
      (fun t => t.cpu.y == 0x00 && t.cpu.z) = true := by decide
theorem test_txa_v_ts_3 :
    leaves (machine [0x8A] [] (fun c => { c with x := 0x01 }))
      (fun t => t.cpu.a == 0x01 && !t.cpu.n && !t.cpu.z) = true := by decide
theorem test_tya_v_ts_4 :
    leaves (machine [0x98] [] (fun c => { c with y := 0xFF })) (fun t => t.cpu.a == 0xFF && t.cpu.n) = true := by decide
theorem test_tsx_v_ts_5 :
    leaves (machine [0xBA] [] (fun c => { c with s := 0x00 }))
      (fun t => t.cpu.x == 0x00 && t.cpu.z && !t.cpu.n) = true := by decide
theorem test_txs_v_ts_6 :
    leaves (machine [0x9A] [] (fun c => { c with x := 0x00, n := true }))
      (fun t => t.cpu.s == 0x00 && t.cpu.n) = true := by decide
theorem test_pha_v_ts_7 :
    leaves (machine [0x48] [] (fun c => { c with a := 0x37, s := 0xFF }))
      (fun t => t.cpu.s == 0xFE && rawRead t.mem 0x01FF == 0x37) = true := by decide
theorem test_pha_v_ts_12 :
    leaves (machine [0x48] [] (fun c => { c with a := 0x01, s := 0x00 }))
      (fun t => t.cpu.s == 0xFF && rawRead t.mem 0x0100 == 0x01) = true := by decide
theorem test_php_v_ts_8 :
    leaves (machine [0x08] [] (fun c => { c with s := 0xFF, n := true, i := false, c := true }))
      (fun t => t.cpu.s == 0xFE && rawRead t.mem 0x01FF == 0xB1) = true := by decide
theorem test_pla_v_ts_9 :
    leaves (machine [0x68] [(0x01FF, 0x80)] (fun c => { c with s := 0xFE }))
      (fun t => t.cpu.a == 0x80 && t.cpu.s == 0xFF && t.cpu.n) = true := by decide
theorem test_plp_v_ts_10 :
    leaves (machine [0x28] [(0x01FF, 0x30)] (fun c => { c with s := 0xFE, n := true, c := true, i := true }))
      (fun t => t.cpu.s == 0xFF && !t.cpu.n && !t.cpu.v && !t.cpu.d && !t.cpu.i && !t.cpu.z &&
        !t.cpu.c) = true := by decide
theorem test_plp_v_ts_11 :
    leaves (machine [0x28] [(0x01FF, 0xFF)] (fun c => { c with s := 0xFE }))
      (fun t => t.cpu.s == 0xFF && t.cpu.n && t.cpu.v && t.cpu.d && t.cpu.i && t.cpu.z && t.cpu.c) = true := by decide
theorem test_adc_v_adc_2 :
    leaves (machine [0x69, 0x01] [] (fun c => { c with a := 0x7F, d := false, c := false }))
      (fun t => t.cpu.a == 0x80 && t.cpu.n && t.cpu.v && !t.cpu.z && !t.cpu.c) = true := by decide
theorem test_adc_v_adc_9 :
    leaves (machine [0x69, 0x46] [] (fun c => { c with a := 0x58, d := true, c := true }))
      (fun t => t.cpu.a == 0x05 && !t.cpu.n && !t.cpu.v && !t.cpu.z && t.cpu.c) = true := by decide
theorem test_sbc_v_sbc_3 :
    leaves (machine [0xE9, 0x01] [] (fun c => { c with a := 0x80, d := false, c := true }))
      (fun t => t.cpu.a == 0x7F && !t.cpu.n && t.cpu.v && !t.cpu.z && t.cpu.c) = true := by decide
theorem test_sbc_v_sbc_10 :
    leaves (machine [0xE9, 0x13] [] (fun c => { c with a := 0x40, d := true, c := true }))
      (fun t => t.cpu.a == 0x27 && !t.cpu.n && !t.cpu.v && !t.cpu.z && t.cpu.c) = true := by decide
theorem test_and_v_al_1 :
    leaves (machine [0x29, 0x0F] [] (fun c => { c with a := 0xF0 }))
      (fun t => t.cpu.a == 0x00 && t.cpu.z && !t.cpu.n) = true := by decide
theorem test_ora_v_al_2 :
    leaves (machine [0x09, 0x80] [] (fun c => { c with a := 0x01 }))
      (fun t => t.cpu.a == 0x81 && t.cpu.n) = true := by decide
theorem test_eor_v_al_3 :
    leaves (machine [0x49, 0xFF] [] (fun c => { c with a := 0xFF }))
      (fun t => t.cpu.a == 0x00 && t.cpu.z) = true := by decide
theorem test_cmp_v_al_5 :
    leaves (machine [0xC9, 0x41] [] (fun c => { c with a := 0x42 }))
      (fun t => !t.cpu.z && t.cpu.c && !t.cpu.n) = true := by decide
theorem test_cmp_v_al_7 :
    leaves (machine [0xC9, 0x01] [] (fun c => { c with a := 0x10, d := true }))
      (fun t => t.cpu.c && !t.cpu.n && !t.cpu.z && t.cpu.d) = true := by decide
theorem test_cpx_v_al_8 :
    leaves (machine [0xE0, 0x05] [] (fun c => { c with x := 0x05 }))
      (fun t => t.cpu.z && t.cpu.c && !t.cpu.n) = true := by decide
theorem test_cpy_v_al_9 :
    leaves (machine [0xC0, 0xFF] [] (fun c => { c with y := 0x00 }))
      (fun t => !t.cpu.c && !t.cpu.z && !t.cpu.n) = true := by decide
theorem test_cpy_v_al_10 :
    leaves (machine [0xC0, 0x00] [] (fun c => { c with y := 0xFF }))
      (fun t => t.cpu.c && !t.cpu.z && t.cpu.n) = true := by decide
theorem test_bit_v_al_11 :
    leaves (machine [0x24, 0x10] [(0x0010, 0x40)] (fun c => { c with a := 0x40 }))
      (fun t => !t.cpu.z && !t.cpu.n && t.cpu.v) = true := by decide
theorem test_bit_v_al_12 :
    leaves (machine [0x24, 0x10] [(0x0010, 0xC0)] (fun c => { c with a := 0x01 }))
      (fun t => t.cpu.z && t.cpu.n && t.cpu.v) = true := by decide
theorem test_inc_v_al_13 :
    leaves (machine [0xE6, 0x10] [(0x0010, 0xFF)] id)
      (fun t => t.cpu.z && !t.cpu.n && rawRead t.mem 0x0010 == 0x00) = true := by decide
theorem test_dec_v_al_15 :
    leaves (machine [0xC6, 0x10] [(0x0010, 0x01)] id)
      (fun t => t.cpu.z && rawRead t.mem 0x0010 == 0x00) = true := by decide
theorem test_dec_v_al_16 :
    leaves (machine [0xC6, 0x10] [(0x0010, 0x00)] id)
      (fun t => t.cpu.n && rawRead t.mem 0x0010 == 0xFF) = true := by decide
theorem test_inx_v_al_17 :
    leaves (machine [0xE8] [] (fun c => { c with x := 0x7F })) (fun t => t.cpu.x == 0x80 && t.cpu.n) = true := by decide
theorem test_iny_v_al_18 :
    leaves (machine [0xC8] [] (fun c => { c with y := 0xFF })) (fun t => t.cpu.y == 0x00 && t.cpu.z) = true := by decide
theorem test_dex_v_al_19 :
    leaves (machine [0xCA] [] (fun c => { c with x := 0x01 })) (fun t => t.cpu.x == 0x00 && t.cpu.z) = true := by decide
theorem test_dey_v_al_20 :
    leaves (machine [0x88] [] (fun c => { c with y := 0x00 })) (fun t => t.cpu.y == 0xFF && t.cpu.n) = true := by decide
theorem test_asl_v_sr_1 :
    leaves (machine [0x0A] [] (fun c => { c with a := 0x81 }))
      (fun t => t.cpu.a == 0x02 && t.cpu.c && !t.cpu.n && !t.cpu.z) = true := by decide
theorem test_lsr_v_sr_3 :
    leaves (machine [0x4A] [] (fun c => { c with a := 0x01 }))
      (fun t => t.cpu.a == 0x00 && t.cpu.c && t.cpu.z && !t.cpu.n) = true := by decide
theorem test_lsr_v_sr_4 :
    leaves (machine [0x4E, 0x00, 0x11] [(0x1100, 0x80)] id)
      (fun t => !t.cpu.c && !t.cpu.n && !t.cpu.z && rawRead t.mem 0x1100 == 0x40) = true := by decide
theorem test_rol_v_sr_5 :
    leaves (machine [0x2A] [] (fun c => { c with a := 0x80, c := true }))
      (fun t => t.cpu.a == 0x01 && t.cpu.c && !t.cpu.n && !t.cpu.z) = true := by decide
theorem test_rol_v_sr_6 :
    leaves (machine [0x2A] [] (fun c => { c with a := 0x7F, c := false }))
      (fun t => t.cpu.a == 0xFE && !t.cpu.c && t.cpu.n) = true := by decide
theorem test_ror_v_sr_7 :
    leaves (machine [0x6A] [] (fun c => { c with a := 0x01, c := true }))
      (fun t => t.cpu.a == 0x80 && t.cpu.c && t.cpu.n) = true := by decide
theorem test_ror_v_sr_8 :
    leaves (machine [0x66, 0x10] [(0x0010, 0x01)] (fun c => { c with c := false }))
      (fun t => t.cpu.c && t.cpu.z && rawRead t.mem 0x0010 == 0x00) = true := by decide
theorem test_bpl_v_ct_1 :
    leaves (machine [0x10, 0x02] [] (fun c => { c with n := false })) (fun t => t.cpu.pc == 0x1004) = true := by decide
theorem test_bpl_v_ct_10 :
    leaves (machineOf vectorCfg 0x1005 [0x10, 0xF0] [] (fun c => { c with n := false }))
      (fun t => t.cpu.pc == 0x0FF7) = true := by decide
theorem test_bmi_v_ct_2 :
    leaves (machine [0x30, 0x10] [] (fun c => { c with n := false })) (fun t => t.cpu.pc == 0x1002) = true := by decide
theorem test_bvc_v_ct_3 :
    leaves (machine [0x50, 0x80] [] (fun c => { c with v := false })) (fun t => t.cpu.pc == 0x0F82) = true := by decide
theorem test_bvs_v_ct_4 :
    leaves (machine [0x70, 0xFE] [] (fun c => { c with v := true })) (fun t => t.cpu.pc == 0x1000) = true := by decide
theorem test_bcc_v_ct_5 :
    leaves (machineOf vectorCfg 0x10F0 [0x90, 0x7F] [] (fun c => { c with c := false }))
      (fun t => t.cpu.pc == 0x1171) = true := by decide
theorem test_bcs_v_ct_6 :
    leaves (machine [0xB0, 0x00] [] (fun c => { c with c := true })) (fun t => t.cpu.pc == 0x1002) = true := by decide
theorem test_bne_v_ct_7 :
    leaves (machineOf vectorCfg 0x1005 [0xD0, 0xFB] [] (fun c => { c with z := false }))
      (fun t => t.cpu.pc == 0x1002) = true := by decide
theorem test_bne_v_ct_9 :
    leaves (machineOf vectorCfg 0x10F0 [0xD0, 0x20] [] (fun c => { c with z := false }))
      (fun t => t.cpu.pc == 0x1112) = true := by decide
theorem test_beq_v_ct_8 :
    leaves (machineOf vectorCfg 0xFFF0 [0xF0, 0x0E] [] (fun c => { c with z := true }))
      (fun t => t.cpu.pc == 0x0000) = true := by decide
theorem test_beq_v_ct_11 :
    leaves (machine [0xF0, 0x10] [] (fun c => { c with z := false })) (fun t => t.cpu.pc == 0x1002) = true := by decide
theorem test_jmp_v_ct_12 : leaves (machine [0x4C, 0x00, 0xC0] [] id) (fun t => t.cpu.pc == 0xC000) = true := by decide
theorem test_jmp_v_ct_13 :
    leaves (machineOf vectorCfg 0x1200 [0x6C, 0xFF, 0x10] [(0x10FF, 0x34), (0x1000, 0x12), (0x1100, 0x56)] id)
      (fun t => t.cpu.pc == 0x1234) = true := by decide
theorem test_jsr_v_ct_14 :
    leaves (machine [0x20, 0x00, 0x11] [] (fun c => { c with s := 0xFF }))
      (fun t => t.cpu.pc == 0x1100 && t.cpu.s == 0xFD && rawRead t.mem 0x01FF == 0x10 &&
        rawRead t.mem 0x01FE == 0x02) = true := by decide
theorem test_rts_v_ct_15 :
    leaves (machine [0x60] [(0x01FE, 0x02), (0x01FF, 0x10)] (fun c => { c with s := 0xFD }))
      (fun t => t.cpu.pc == 0x1003 && t.cpu.s == 0xFF) = true := by decide
theorem test_brk_v_ct_16 :
    leaves (machine [0x00, 0xEA] [(0xFFFE, 0x00), (0xFFFF, 0x20)] (fun c => { c with i := false, n := true }))
      (fun t => t.cpu.pc == 0x2000 && t.cpu.s == 0xFC && t.cpu.i && rawRead t.mem 0x01FF == 0x10 &&
        rawRead t.mem 0x01FE == 0x02 && rawRead t.mem 0x01FD == 0xB0) = true := by decide
theorem test_rti_v_ct_17 :
    leaves (machine [0x40] [(0x01FD, 0xE3), (0x01FE, 0x34), (0x01FF, 0x12)] (fun c => { c with s := 0xFC }))
      (fun t => t.cpu.pc == 0x1234 && t.cpu.s == 0xFF && t.cpu.n && t.cpu.v && !t.cpu.d && !t.cpu.i && t.cpu.z &&
        t.cpu.c) = true := by decide
theorem test_rti_v_ct_18 :
    leaves (machine [0x40] [(0x01FD, 0x20), (0x01FE, 0x34), (0x01FF, 0x12)] (fun c => { c with s := 0xFC }))
      (fun t => t.cpu.pc == 0x1234 && t.cpu.s == 0xFF && !t.cpu.n && !t.cpu.v && !t.cpu.d && !t.cpu.i && !t.cpu.z &&
        !t.cpu.c) = true := by decide
theorem test_clc_v_fl_1 :
    leaves (machine [0x18] [] (fun c => { c with c := true })) (fun t => !t.cpu.c) = true := by decide
theorem test_sec_v_fl_2 :
    leaves (machine [0x38] [] (fun c => { c with c := false })) (fun t => t.cpu.c) = true := by decide
theorem test_cld_v_fl_5 :
    leaves (machine [0xD8] [] (fun c => { c with d := true })) (fun t => !t.cpu.d) = true := by decide
theorem test_sed_v_fl_6 :
    leaves (machine [0xF8] [] (fun c => { c with d := false })) (fun t => t.cpu.d) = true := by decide
theorem test_clv_v_fl_7 :
    leaves (machine [0xB8] [] (fun c => { c with v := true })) (fun t => !t.cpu.v) = true := by decide
theorem test_nop_v_fl_8 : leaves (machine [0xEA] [] id) (fun t => t.cpu.pc == 0x1001) = true := by decide
theorem test_jam_v_ud_19 :
    leaves (machine [0x02] [] id) (fun t => t.cpu.pc == 0x1001 && t.cpu.undocCount == 1) = true := by decide
theorem test_nopUndoc_v_ud_23 :
    leaves (machine [0x1C, 0xFF, 0x10] [] (fun c => { c with x := 0x01 }))
      (fun t => t.cpu.pc == 0x1003) = true := by decide
theorem test_slo_v_ud_1 :
    leaves (machine [0x07, 0x10] [(0x0010, 0x81)] (fun c => { c with a := 0x01 }))
      (fun t => t.cpu.a == 0x03 && t.cpu.c && !t.cpu.n && !t.cpu.z && rawRead t.mem 0x0010 == 0x02) = true := by decide
theorem test_slo_v_ud_2 :
    leaves (machine [0x1B, 0xFF, 0x10] [(0x1100, 0x40)] (fun c => { c with y := 0x01, a := 0x01 }))
      (fun t => t.cpu.a == 0x81 && t.cpu.n && !t.cpu.c && rawRead t.mem 0x1100 == 0x80) = true := by decide
theorem test_rla_v_ud_3 :
    leaves (machine [0x27, 0x10] [(0x0010, 0x40)] (fun c => { c with a := 0xFF, c := true }))
      (fun t => t.cpu.a == 0x81 && !t.cpu.c && t.cpu.n && rawRead t.mem 0x0010 == 0x81) = true := by decide
theorem test_sre_v_ud_4 :
    leaves (machine [0x47, 0x10] [(0x0010, 0x03)] (fun c => { c with a := 0x01 }))
      (fun t => t.cpu.a == 0x00 && t.cpu.c && t.cpu.z && rawRead t.mem 0x0010 == 0x01) = true := by decide
theorem test_rra_v_ud_5 :
    leaves (machine [0x67, 0x10] [(0x0010, 0x03)] (fun c => { c with a := 0x10, d := false, c := false }))
      (fun t => t.cpu.a == 0x12 && !t.cpu.c && rawRead t.mem 0x0010 == 0x01) = true := by decide
theorem test_sax_v_ud_6 :
    leaves (machine [0x87, 0x10] [] (fun c => { c with a := 0xF0, x := 0x3C }))
      (fun t => rawRead t.mem 0x0010 == 0x30) = true := by decide
theorem test_lax_v_ud_7 :
    leaves (machine [0xB3, 0x80] [(0x0080, 0x00), (0x0081, 0x11), (0x1105, 0x91)] (fun c => { c with y := 0x05 }))
      (fun t => t.cpu.a == 0x91 && t.cpu.x == 0x91 && t.cpu.n) = true := by decide
theorem test_dcp_v_ud_8 :
    leaves (machine [0xC7, 0x10] [(0x0010, 0x06)] (fun c => { c with a := 0x05 }))
      (fun t => t.cpu.z && t.cpu.c && rawRead t.mem 0x0010 == 0x05) = true := by decide
theorem test_isc_v_ud_9 :
    leaves (machine [0xE7, 0x10] [(0x0010, 0x0F)] (fun c => { c with a := 0x10, d := false, c := true }))
      (fun t => t.cpu.a == 0x00 && t.cpu.z && t.cpu.c && rawRead t.mem 0x0010 == 0x10) = true := by decide
theorem test_isc_v_ud_10 :
    leaves (machine [0xFF, 0x00, 0x11] [(0x1101, 0x0F)] (fun c => { c with x := 0x01, a := 0x20, c := true }))
      (fun t => t.cpu.a == 0x10 && t.cpu.c && rawRead t.mem 0x1101 == 0x10) = true := by decide
theorem test_anc_v_ud_11 :
    leaves (machine [0x0B, 0x80] [] (fun c => { c with a := 0xFF }))
      (fun t => t.cpu.a == 0x80 && t.cpu.n && t.cpu.c) = true := by decide
theorem test_alr_v_ud_12 :
    leaves (machine [0x4B, 0x03] [] (fun c => { c with a := 0xFF }))
      (fun t => t.cpu.a == 0x01 && t.cpu.c && !t.cpu.n) = true := by decide
theorem test_arr_v_ud_13 :
    leaves (machine [0x6B, 0xFF] [] (fun c => { c with a := 0xFF, c := true }))
      (fun t => t.cpu.a == 0xFF && t.cpu.c && !t.cpu.v && t.cpu.n) = true := by decide
theorem test_arr_v_ud_14 :
    leaves (machine [0x6B, 0xC0] [] (fun c => { c with a := 0xFF, c := false }))
      (fun t => t.cpu.a == 0x60 && t.cpu.c && !t.cpu.v && !t.cpu.n && !t.cpu.z) = true := by decide
theorem test_sbx_v_ud_15 :
    leaves (machine [0xCB, 0x05] [] (fun c => { c with a := 0x0F, x := 0xFF }))
      (fun t => t.cpu.x == 0x0A && t.cpu.c) = true := by decide
theorem test_sbx_v_ud_16 :
    leaves (machine [0xCB, 0x10] [] (fun c => { c with a := 0xF0, x := 0x3C }))
      (fun t => t.cpu.x == 0x20 && t.cpu.c) = true := by decide
theorem test_usbc_v_ud_17 :
    leaves (machine [0xEB, 0x01] [] (fun c => { c with a := 0x00, d := false, c := true }))
      (fun t => t.cpu.a == 0xFF && t.cpu.n && !t.cpu.c) = true := by decide
theorem test_las_v_ud_18 :
    leaves (machine [0xBB, 0x00, 0x11] [(0x1100, 0x3F)] (fun c => { c with s := 0xF0, y := 0x00 }))
      (fun t => t.cpu.a == 0x30 && t.cpu.x == 0x30 && t.cpu.s == 0x30) = true := by decide
theorem test_ane_v_ud_20 :
    leaves (machine [0x8B, 0x12] [] (fun c => { c with a := 0x33 }))
      (fun t => t.cpu.a == 0x33 && t.cpu.pc == 0x1002 && t.cpu.undocCount == 1) = true := by decide
theorem test_sha_v_ud_21 :
    leaves (machine [0x9F, 0x00, 0x11] [] (fun c => { c with a := 0xFF, x := 0xFF, y := 0x01 }))
      (fun t => t.cpu.undocCount == 1) = true := by decide

/-! Further steps: the undocumented opcodes under the policy REFERENCE, worked by hand from their rules (R438, R449 to
R454), and the flag instructions of rules R422 and R423. -/

/-- The machine at 0x1000 with every undocumented opcode at REFERENCE. -/
def reference (code : List Byte) (cells : List (Addr × Byte)) (set : Cpu → Cpu) : State :=
  machineOf referenceCfg 0x1000 code cells set

theorem test_cli : leaves (machine [0x58] [] id) (fun t => !t.cpu.i && t.cpu.pc == 0x1001) = true := by decide
theorem test_sei :
    leaves (machine [0x78] [] (fun c => { c with i := false })) (fun t => t.cpu.i && t.cpu.pc == 0x1001) = true := by decide
theorem test_ane_reference :
    leaves (reference [0x8B, 0x12] [] (fun c => { c with a := 0x01, x := 0xFF }))
      (fun t => t.cpu.a == 0x02 && !t.cpu.n && t.cpu.undocCount == 0) = true := by decide
theorem test_lxa_default :
    leaves (machine [0xAB, 0x12] [] (fun c => { c with a := 0x33, x := 0x44 }))
      (fun t => t.cpu.a == 0x33 && t.cpu.x == 0x44 && t.cpu.undocCount == 1) = true := by decide
theorem test_lxa_reference :
    leaves (reference [0xAB, 0x8F] [] id) (fun t => t.cpu.a == 0x8E && t.cpu.x == 0x8E && t.cpu.n) = true := by decide
theorem test_sha_reference :
    leaves (reference [0x93, 0x80] [(0x0080, 0x00), (0x0081, 0x12)] (fun c => { c with y := 1, a := 0xFF, x := 0x0F }))
      (fun t => rawRead t.mem 0x1201 == 0x03) = true := by decide
theorem test_shx_reference :
    leaves (reference [0x9E, 0xF0, 0x12] [] (fun c => { c with y := 5, x := 0x55 }))
      (fun t => rawRead t.mem 0x12F5 == 0x11) = true := by decide
theorem test_shy_reference_across_pages :
    leaves (reference [0x9C, 0xFF, 0x12] [] (fun c => { c with x := 2, y := 0x11 }))
      (fun t => rawRead t.mem 0x1101 == 0x11 && rawRead t.mem 0x1301 == 0) = true := by decide
theorem test_shx_default :
    leaves (machine [0x9E, 0xF0, 0x12] [] (fun c => { c with y := 5, x := 0x55 }))
      (fun t => rawRead t.mem 0x12F5 == 0 && t.cpu.undocCount == 1) = true := by decide
theorem test_tas_reference :
    leaves (reference [0x9B, 0x00, 0x12] [] (fun c => { c with y := 1, a := 0xF1, x := 0x3F }))
      (fun t => t.cpu.s == 0x31 && rawRead t.mem 0x1201 == 0x11) = true := by decide
theorem test_rra_decimal_preserve :
    leaves (machineOf { referenceCfg with bcdNV := .preserve } 0x1000 [0x67, 0x10] [(0x0010, 0x02)]
        (fun c => { c with a := 0x10, d := true, n := true }))
      (fun t => t.cpu.a == 0x11 && t.cpu.n && !t.cpu.c) = true := by decide

/-- Vector V-TRAP-3: a callback that returns 0xE100, registered at 0xE000. -/
def trapped : State :=
  { registerTrap 0xE000 7 (machineOf vectorCfg 0xE000 [] [] id) with
    inputs := { HostInputs.idle with callbackRun := { accesses := [], newPc := some 0xE100 } } }

theorem test_trap_v_trap_3 :
    leaves trapped (fun t => t.cpu.pc == 0xE100 && t.hostCalls == [.trapCallback 7 0xE000]) = true := by decide
theorem test_trap_byte_overwritten_v_trap_4 :
    leaves (forceWrite 0xE000 0xEA trapped) (fun t => t.cpu.pc == 0xE001 && t.hostCalls == []) = true := by decide

/-! The program the host places runs first after reset (log entry 6). -/

theorem test_placed_word_runs_lda :
    step (State.reset.withFetchWord 16 0x80A9) = exec (.lda .imm) (State.reset.withFetchWord 16 0x80A9) := rfl
theorem test_placed_word_runs_sta :
    step (State.reset.withFetchWord 24 0x12349D) = exec (.sta .absx) (State.reset.withFetchWord 24 0x12349D) := rfl

/-! ### Witnesses: values that meet the hypotheses of each statement -/

/-- An address range that is RAM with one mirror 0x40 further on (rule R118). -/
def mirrored : MapEntry := { chip := .ram, start := 0x9800, stop := 0x980F, mirrorMask := 0x0040 }

/-- A machine with zero-page pointers, the index registers at 1 and the NOP opcode at 0x1000. -/
def sample : State :=
  machine [0xEA, 0x80, 0x11] [(0x0080, 0xFF), (0x0081, 0x11), (0x0082, 0x12)] (fun c => { c with x := 1, y := 1 })

/-- The same under the policy REFERENCE. -/
def sampleReference : State := { sample with cfg := referenceCfg }

/-- The same in decimal mode, with the carry set. -/
def sampleDecimal : State := { sampleReference with cpu := { sampleReference.cpu with d := true, c := true } }

theorem witness_DecodeOfEncode :
    [Code.mk (.nopUndoc .absx 0xFC) [0xFF, 0x00], .mk (.jam 0xF2) [], .mk (.anc 0x2B) [0x80], .mk (.lda .izy) [0x12]].all
      (fun c => c.wellFormed && decide (c.instr ≠ .trap)) = true := by decide

theorem witness_StepRunsTheDecodedInstruction_plain :
    sample.cpu.prog = .none ∧ sample.cpu.next = .fetch ∧ sample.plainAt sample.cpu.pc = true ∧
      sample.trapAt sample.cpu.pc = none ∧
      decode (sample.peek sample.cpu.pc :: [0x34]) = .ok ({ instr := .nop, operands := [] }, [0x34]) := by decide
theorem witness_StepRunsTheDecodedInstruction_trap :
    trapped.cpu.prog = .none ∧ trapped.cpu.next = .fetch ∧ trapped.plainAt trapped.cpu.pc = true ∧
      (trapped.trapAt trapped.cpu.pc).isSome = true ∧ trapped.peek trapped.cpu.pc = trapped.cfg.trapOpcode := by decide
theorem witness_StepRunsTheDecodedInstruction_trap_byte_overwritten :
    let s := forceWrite 0xE000 0xEA trapped
    s.plainAt s.cpu.pc = true ∧ s.peek s.cpu.pc ≠ s.cfg.trapOpcode ∧
      decode (s.peek s.cpu.pc :: []) = .ok ({ instr := .nop, operands := [] }, []) := by decide

theorem sample_inv : sample.Inv :=
  { mem := by decide, inProgram := by unfold State.InProgram; decide, nmi := by decide, irq := by decide
    via1 := by unfold Via.Inv; decide, via2 := by unfold Via.Inv; decide, vic := by unfold Vic.Inv; decide }

/-- A state inside a program: STA absolute,X at its last cycle. -/
def insideProgram : State := { sample with cpu := { sample.cpu with prog := .instr 0x9D, t := 5 } }

theorem witness_StepIsTicksToTheBoundary : sample.Inv := sample_inv
theorem witness_StepIsTicksToTheBoundary_inside_a_program : insideProgram.Inv :=
  { mem := by decide, inProgram := by unfold State.InProgram; decide, nmi := by decide, irq := by decide
    via1 := by unfold Via.Inv; decide, via2 := by unfold Via.Inv; decide, vic := by unfold Vic.Inv; decide }
theorem witness_StepKeepsInvariant : sample.Inv ∧ ∃ t : State, step sample = .next t := ⟨sample_inv, _, rfl⟩

/-- The sample with another opcode, its operand crossing a page in the indexed modes. -/
def sampleCode (op : Byte) : State := { sample with mem := rawWrite (rawWrite sample.mem 0x1000 op) 0x1001 0xFF }

/-- The hypotheses of a cycle count for an instruction at PC, but those on its mode. -/
def countable (i : Instr) (s : State) : Bool :=
  s.cpu.prog == .none && s.cpu.next == .fetch && s.plainAt s.cpu.pc && (s.trapAt s.cpu.pc).isNone && i.wellFormed &&
    decide (i ≠ .trap) && s.peek s.cpu.pc == i.opcode

theorem witness_CycleCounts_immediate :
    countable .alr (sampleCode (Instr.opcode .alr)) = true ∧ readModeOf .alr = some .imm := by decide
theorem witness_CycleCounts_reads :
    let i : Instr := .lda .absx
    let s := sampleCode i.opcode
    countable i s = true ∧ readModeOf i = some (.mem .absx) ∧ s.codePlain .absx = true ∧ s.crosses .absx = true := by decide
theorem witness_CycleCounts_writes :
    let i : Instr := .sta .absx
    let s := sampleCode i.opcode
    countable i s = true ∧ writeModeOf i = some .absx ∧ s.codePlain .absx = true := by decide
theorem witness_CycleCounts_modifies :
    let i : Instr := .isc .izy
    let s := sampleCode i.opcode
    countable i s = true ∧ modifyModeOf i = some .izy ∧ s.codePlain .izy = true := by decide
theorem witness_CycleCounts_fixed :
    countable .brk (sampleCode (Instr.opcode .brk)) = true ∧ fixedTicks .brk = some 7 ∧
      countable .inx (sampleCode (Instr.opcode .inx)) = true ∧ fixedTicks .inx = some 2 := by decide
theorem witness_CycleCounts_branches :
    let s := sampleCode (Instr.opcode .bpl)
    countable .bpl s = true ∧ branchCondition s.cpu .bpl = some true ∧ s.plainAt (s.cpu.pc + 1) = true := by decide
theorem witness_CycleCounts_trap :
    trapped.cpu.prog = .none ∧ trapped.cpu.next = .fetch ∧ trapped.plainAt trapped.cpu.pc = true ∧
      (trapped.trapAt trapped.cpu.pc).isSome = true ∧ trapped.peek trapped.cpu.pc = trapped.cfg.trapOpcode := by decide

/-- Every instruction but TRAP belongs to exactly one of the classes that the cycle counts name. -/
theorem test_access_classes_cover (c : Cpu) (i : Instr) (h : i ≠ .trap) :
    [(readModeOf i).isSome, (writeModeOf i).isSome, (modifyModeOf i).isSome, (fixedTicks i).isSome,
      (branchCondition c i).isSome].count true = 1 := by
  cases i <;> first | rfl | exact absurd rfl h | (rename_i m; cases m <;> rfl) | (rename_i m _; cases m <;> rfl)

/-- Parameters that make the cartridge range ROM. -/
def cartridgeCfg : MachineCfg := withCartridge vectorCfg

theorem witness_BootRegistersAndRom :
    ∃ (roms : RomImages) (n : Nat), roms.char.length = 4096 ∧ roms.basic.length = 8192 ∧ roms.kernal.length = 8192 ∧
      n < 4096 ∧ n < 8192 :=
  ⟨{ char := List.replicate 4096 1, basic := List.replicate 8192 2, kernal := List.replicate 8192 3, cart := [] }, 4095,
    List.length_replicate, List.length_replicate, List.length_replicate, by decide, by decide⟩
theorem witness_BootRegistersAndRom_cartridge : cartridgeCfg.mem.cart = .rom ∧ 8191 < 8192 := ⟨rfl, by decide⟩
theorem witness_BootRegistersAndRom_zero :
    (0x7FFF : Addr).toNat < 0x8000 ∧ 0x9000 ≤ (0x9FFF : Addr).toNat ∧ (0x9FFF : Addr).toNat < 0xA000 ∧
      0xA000 ≤ (0xBFFF : Addr).toNat ∧ (0xBFFF : Addr).toNat < 0xC000 ∧ vectorCfg.mem.cart ≠ .rom := by decide

theorem witness_ProgramLoadMemory_cartridge :
    ∃ shortest longest tooLong : List Byte, 1 ≤ shortest.length ∧ shortest.length ≤ 8192 ∧ 1 ≤ longest.length ∧
      longest.length = 8192 ∧ ¬(1 ≤ tooLong.length ∧ tooLong.length ≤ 8192) ∧ ¬(1 ≤ ([] : List Byte).length) :=
  ⟨[0xA9], List.replicate 8192 1, List.replicate 8193 1, by decide, by decide, by rw [List.length_replicate]; decide,
    List.length_replicate, by rw [List.length_replicate]; decide, by decide⟩
/-- One byte at 0xFFFF ends at the top of memory; two are one too many. -/
theorem witness_ProgramLoadMemory_basic :
    256 * (0xFF : Byte).toNat + (0xFF : Byte).toNat + [(0x60 : Byte)].length ≤ 65536 ∧
      65536 < 256 * (0xFF : Byte).toNat + (0xFF : Byte).toNat + [(0x60 : Byte), 0x60].length ∧
      ([0x01] : List Byte).length < 2 := by decide
theorem witness_ProgramLoadMemory_raw :
    ∃ full tooLong : List Byte, full.length ≤ 65536 ∧ 65536 < tooLong.length :=
  ⟨List.replicate 65536 1, List.replicate 65537 1, by rw [List.length_replicate],
    by rw [List.length_replicate]; decide⟩

/-- The register set of a timer/IO chip with every register at its greatest value. -/
def fullVia : ViaSnapshot :=
  { ora := 255, orb := 255, ddra := 255, ddrb := 255, t1c := 65535, t1l := 65535, t2c := 65535, t2ll := 255, sr := 255,
    acr := 255, pcr := 255, ifr := 255, ier := 255, t1Armed := some false, t2Armed := none }

/-- A snapshot with every register at its greatest value. -/
def fullSnapshot : Snapshot :=
  { image := List.replicate 65536 0xAA, a := 255, x := 255, y := 255, s := 255, pc := 65535
    n := true, v := true, d := true, i := false, z := true, c := true, via1 := fullVia, via2 := fullVia
    hcount := 283, vcount := 311 }

theorem witness_SnapshotLoad_well_formed : fullSnapshot.wellFormed vectorCfg = true := by
  have h : fullSnapshot.image.length = 65536 := List.length_replicate
  unfold Snapshot.wellFormed
  rw [h]
  decide
theorem witness_SnapshotLoad_malformed : { fullSnapshot with image := [] }.wellFormed vectorCfg = false := by decide
theorem witness_SnapshotLoad_register_too_wide : { fullSnapshot with image := [], a := 256 }.wellFormed vectorCfg = false := by
  decide

/-- An IO_DECODE with an alias address of both timer chips, one of the video chip and VIA1, one of VIA2 alone. -/
def aliasCfg : MachineCfg :=
  { vectorCfg with
    ioDecode :=
      [(0x9130, { vic := false, via1 := true, via2 := true }), (0x93FF, { vic := true, via1 := true, via2 := false }),
        (0x910F, { vic := false, via1 := false, via2 := true })] }

/-- The sample with those alias addresses and a mirrored RAM range. -/
def mapped : State := { sample with cfg := aliasCfg, maps := [mirrored] }

theorem witness_RamCells :
    mapped.mem.wf = true ∧ mapped.handler 0x9840 = .ram 0x9800 ∧ mapped.handler 0x9800 = .ram 0x9800 ∧
      (0x9801 : Addr) ≠ 0x9800 := by decide
theorem witness_HandlerAccesses :
    mapped.mem.wf = true ∧ mapped.handler 0x97FF = .colour 0x97FF ∧ mapped.handler 0xFFFF = .rom 0xFFFF ∧
      mapped.handler 0x9810 = .unconnected ∧
      mapped.handler 0x9130 = .composite { vic := false, via1 := true, via2 := true } 0 ∧
      mapped.handler 0x93FF = .composite { vic := true, via1 := true, via2 := false } 15 := by decide

theorem witness_UnexpandedMap : vectorCfg.mem = MemConfig.unexpanded := rfl
/-- The edges of the alias ranges: no chip, one and two. -/
theorem witness_UnexpandedMap_alias :
    aliasCfg.mem = MemConfig.unexpanded ∧
      ((∀ e ∈ aliasCfg.ioDecode, e.1 ≠ (0x9010 : Addr).toNat) ∧ baseHandler aliasCfg 0x9010 = .unconnected) ∧
      (∃ before after : List (Nat × ChipSet),
        aliasCfg.ioDecode = before ++ ((0x910F : Addr).toNat, ⟨false, false, true⟩) :: after ∧
          ∀ e ∈ before, e.1 ≠ (0x910F : Addr).toNat) ∧
      aliasCfg.ioDecode = [] ++ ((0x9130 : Addr).toNat, ⟨false, true, true⟩) :: aliasCfg.ioDecode.tail := by
  refine ⟨rfl, by decide, ⟨aliasCfg.ioDecode.take 2, [], ?_⟩, by decide⟩
  decide
theorem test_map_at_the_edges_of_its_ranges :
    [0x03FF, 0x0400, 0x0FFF, 0x1000, 0x1FFF, 0x2000, 0x7FFF, 0x8000, 0x8FFF, 0xC000, 0xFFFF].map (baseHandler vectorCfg) =
      [.ram 0x03FF, .unconnected, .unconnected, .ram 0x1000, .ram 0x1FFF, .unconnected, .unconnected, .rom 0x8000,
        .rom 0x8FFF, .rom 0xC000, .rom 0xFFFF] ∧
    [0x9000, 0x900F, 0x9110, 0x911F, 0x9120, 0x912F, 0x9400, 0x97FF, 0x9800, 0xBFFF].map (baseHandler vectorCfg) =
      [.vic 0, .vic 15, .via .via1 0, .via .via1 15, .via .via2 0, .via .via2 15, .colour 0x9400, .colour 0x97FF,
        .unconnected, .unconnected] := by decide

/-- The mirrors of a mask with the single bit 6. -/
theorem mirror_cases (m : Addr) (h : m &&& ~~~mirrored.mirrorMask = 0) : m = 0 ∨ m = 0x0040 := by
  have e : m = (m &&& ~~~(0x0040 : Addr)) ||| (m &&& BitVec.twoPow 16 6) := by
    ext i hi
    simp only [BitVec.getElem_or, BitVec.getElem_and, BitVec.getElem_not]
    have : (0x0040 : Addr)[i] = (BitVec.twoPow 16 6)[i] := by congr 1
    rw [this]
    cases m[i] <;> cases (BitVec.twoPow 16 6)[i] <;> rfl
  rw [show m &&& ~~~(0x0040 : Addr) = 0 from h, BitVec.and_twoPow] at e
  split at e
  · exact .inr (e.trans (by decide))
  · exact .inl (e.trans (by decide))

theorem witness_MapMirrors_covered :
    ((0x0040 : Addr) &&& ~~~mirrored.mirrorMask = 0 ∧ mirrored.start ≤ 0x980F + 0x0040 - 0x0040 ∧
        (0x980F : Addr) + 0x0040 - 0x0040 ≤ mirrored.stop) ∧
      ∀ m' : Addr, m' &&& ~~~mirrored.mirrorMask = 0 ∧ mirrored.start ≤ 0x980F + 0x0040 - m' ∧
        0x980F + 0x0040 - m' ≤ mirrored.stop → m' ≤ 0x0040 := by
  refine ⟨by decide, fun m' h => ?_⟩
  rcases mirror_cases m' h.1 with rfl | rfl <;> decide
/-- Rule R118 for a device: a range that starts at no multiple of 16 counts its registers from its start (log entry 18). -/
theorem test_map_device_register :
    let t := mapChip { chip := .via .via2, start := 0x9803, stop := 0x9812, mirrorMask := 0 } [] sample
    t.handler 0x9803 = .via .via2 0 ∧ t.handler 0x9812 = .via .via2 15 ∧ t.handler 0x9813 = .unconnected := by decide
theorem witness_MapMirrors_data :
    sample.mem.wf = true ∧ mirrored.start.toNat + (List.replicate 16 (1 : Byte)).length = mirrored.stop.toNat + 1 := by
  decide
theorem witness_MapMirrors_uncovered :
    ∀ m : Addr, ¬(m &&& ~~~mirrored.mirrorMask = 0 ∧ mirrored.start ≤ 0x9810 - m ∧ 0x9810 - m ≤ mirrored.stop) := by
  intro m h
  rcases mirror_cases m h.1 with rfl | rfl
  · exact absurd h (by decide)
  · exact absurd h (by decide)

theorem witness_TrapRegistration : sample.mem.wf = true ∧ sample.trapAt 0x1000 = none ∧ (0x1001 : Addr) ≠ 0x1000 := by decide

theorem witness_PlainMemoryReadsAreStable :
    sample.plainAt 0xFFFF = true ∧ sample.plainAt (sample.operandAddress .izy) = true := by decide

/-- Every mode's operand is readable in the samples: the hypothesis of every completion statement. -/
theorem witness_readPlain :
    [ReadMode.imm, .mem .zp, .mem .zpx, .mem .zpy, .mem .abs, .mem .absx, .mem .absy, .mem .izx, .mem .izy].all
      (fun m => sample.readPlain m && sampleReference.readPlain m && sampleDecimal.readPlain m) = true := by decide

theorem witness_LoadsComplete : sample.readPlain (readModeOfAlu .izy) = true ∧ sample.readPlain (readModeOfLdx .absy) = true ∧
    sample.readPlain (readModeOfLdy .imm) = true := by decide
theorem witness_StoresComplete : sample.codePlain (memModeOfStore .izx) = true ∧ sample.codePlain (memModeOfStx .zpy) = true ∧
    sample.codePlain (memModeOfSty .abs) = true := by decide
theorem witness_LogicCompletes : sample.readPlain (readModeOfAlu .absx) = true ∧ sample.codePlain (memModeOfBit .abs) = true := by
  decide
theorem witness_ComparesComplete :
    sample.readPlain (readModeOfAlu .izx) = true ∧ sample.readPlain (readModeOfCpx .imm) = true := by decide
theorem witness_BinaryArithmeticCompletes : sample.readPlain (readModeOfAlu .imm) = true ∧ sample.cpu.d = false := by decide
theorem witness_DecimalArithmeticCompletes :
    sampleDecimal.readPlain (readModeOfAlu .imm) = true ∧ sampleDecimal.cpu.d = true := by decide
theorem witness_BcdIsDecimal :
    ∃ (a1 a0 b1 b0 : Nat) (c : Cpu) (m : Byte), a1 < 10 ∧ a0 < 10 ∧ b1 < 10 ∧ b0 < 10 ∧
      c.a = BitVec.ofNat 8 (16 * a1 + a0) ∧ m = BitVec.ofNat 8 (16 * b1 + b0) :=
  ⟨9, 9, 0, 1, { Cpu.reset 0 with a := 0x99 }, 0x01, by decide⟩
theorem witness_IncrementsComplete : sample.codePlain (memModeOfInc .absx) = true := by decide
theorem witness_ShiftsComplete : memModeOfShift .absx = some .absx ∧ sample.codePlain .absx = true := by decide

theorem witness_BranchesComplete_not_taken : sample.cpu.n = false ∧ (!sample.cpu.c) = true := by decide
theorem witness_BranchesComplete_in_the_page :
    hiByte (sample.cpu.pc + 2 + (0x10 : Byte).signExtend 16) = hiByte (sample.cpu.pc + 2) := by decide
theorem witness_BranchesComplete_across_pages :
    hiByte (sample.cpu.pc + 2 + (0x80 : Byte).signExtend 16) ≠ hiByte (sample.cpu.pc + 2) := by decide

theorem witness_ReturnAddressIsNextInstruction :
    ∃ s t u : State, s.mem.wf = true ∧ exec .jsr s = .next t ∧ exec .rts t = .next u ∧
      s.handler (s.stackAt 0) = .ram (s.stackAt 0) ∧ s.handler (s.stackAt 255) = .ram (s.stackAt 255) :=
  ⟨sample, _, _, by decide, rfl, rfl, by decide, by decide⟩

/-- The sample about to take an interrupt. -/
def interrupted (k : IntKind) : State := { sample with cpu := { sample.cpu with next := .int k } }

theorem witness_InterruptEntry (k : IntKind) : (interrupted k).cpu.prog = .none ∧ (interrupted k).cpu.next = .int k := ⟨rfl, rfl⟩
theorem test_interrupt_pushes_pc_and_status :
    leaves (interrupted .nmi)
      (fun t => rawRead t.mem 0x01FF == 0x10 && rawRead t.mem 0x01FE == 0x00 && rawRead t.mem 0x01FD == 0x24 &&
        t.cpu.s == 0xFC && t.cpu.next == .fetch) = true := by decide

theorem witness_BoundaryDecision :
    ∃ (u v : State) (c d : Cpu), c.irqDelay = true ∧ d.irqDelay = false ∧ u.lines.nmiPending = true ∧
      v.lines.nmiPending = false ∧ v.lines.irqLevel = true ∧ d.i = false :=
  ⟨{ sample with lines := { sample.lines with nmiPending := true } },
    { sample with lines := { sample.lines with irqLevel := true } },
    { sample.cpu with irqDelay := true }, { sample.cpu with i := false }, by decide⟩

theorem witness_UndocumentedReadsComplete :
    let s := sampleReference
    s.codePlain (memModeOfLax .izy) = true ∧ s.codePlain .absy = true ∧ s.readPlain .imm = true ∧ s.cpu.d = false ∧
      [Instr.lax .izy, .las, .anc 0x0B, .alr, .arr, .sbx, .ane, .lxa, .usbc].all (fun i => !runsAsNop s.cfg i) = true := by
  decide
theorem witness_CombinedModifiesComplete :
    let s := sampleReference
    s.codePlain (memModeOfStore .absy) = true ∧ s.cpu.d = false ∧
      [Instr.slo .absy, .rla .absy, .sre .absy, .rra .absy, .dcp .absy, .isc .absy].all
        (fun i => !runsAsNop s.cfg i) = true := by decide
theorem witness_CombinedDecimalCompletes :
    let s := sampleDecimal
    s.cpu.d = true ∧ s.codePlain (memModeOfStore .izx) = true ∧ s.readPlain .imm = true ∧
      [Instr.rra .izx, .isc .izx, .usbc].all (fun i => !runsAsNop s.cfg i) = true := by decide
theorem witness_UndocumentedStoresComplete :
    let s := sampleReference
    s.codePlain (memModeOfSax .izx) = true ∧ s.codePlain (memModeOfSha .izy) = true ∧ s.codePlain .absy = true ∧
      s.codePlain .absx = true ∧
      [Instr.sax .izx, .sha .izy, .shx, .shy, .tas].all (fun i => !runsAsNop s.cfg i) = true := by decide
theorem witness_UndocumentedNopsComplete :
    readModeOfNop .absx = some (.mem .absx) ∧ sample.readPlain (.mem .absx) = true := by decide
theorem witness_NopPolicyChangesNothing :
    [Instr.sha .izy, .shx, .shy, .tas, .ane, .lxa, .jam 0xF2].all
      (fun i => i.wellFormed && runsAsNop vectorCfg i) = true := by decide
theorem witness_TrapCompletes : trapped.trapAt trapped.cpu.pc = some { saved := 0x00, callback := 7 } := by decide

/-- Every instruction answers a next state, so the frames speak of every instruction. -/
theorem witness_RegistersWrittenOnlyBy :
    (writesA .nop = false ∧ writesX .nop = false ∧ writesY .nop = false ∧ writesS .nop = false) ∧
      ∃ t : State, exec .nop sample = .next t := ⟨by decide, _, rfl⟩
theorem witness_FlagsWrittenOnlyBy :
    (writesNZ (.stx .abs) = false ∧ writesV (.stx .abs) = false ∧ writesD (.stx .abs) = false ∧
      writesI (.stx .abs) = false ∧ writesC (.stx .abs) = false) ∧
      ∃ t : State, exec (.stx .abs) sample = .next t := ⟨by decide, _, rfl⟩
theorem witness_NonStoringFrame : mayStore (.cmp .izy) = false ∧ ∃ t : State, exec (.cmp .izy) sample = .next t :=
  ⟨rfl, _, rfl⟩
theorem witness_StoringFrame :
    sampleReference.codePlain .izy = true ∧ storeMode (.slo .izy) = some .izy ∧
      sampleReference.plainAt (sampleReference.operandAddress .izy) = true ∧
      sampleReference.storedCell (sampleReference.operandAddress .izy) ≠ some 0x1000 ∧
      ∃ t : State, exec (.slo .izy) sampleReference = .next t :=
  ⟨by decide, rfl, by decide, by decide, _, rfl⟩
theorem witness_StoringFrame_unstable :
    let s := sampleReference
    let v := s.cpu.y &&& (baseHigh s.peek (s.cpu.pc + 1) .absx + 1)
    s.codePlain .absx = true ∧ s.plainAt (s.unstableAddress .absx v) = true ∧
      s.storedCell (s.unstableAddress .absx v) ≠ some 0x1000 ∧ ∃ t : State, exec .shy s = .next t :=
  ⟨by decide, by decide, by decide, _, rfl⟩
theorem witness_StackFrame :
    (∀ k ∈ [0, 255, 254], sample.storedCell (sample.stackAt k) ≠ some 0x01FC ∧ sample.plainAt (sample.stackAt k) = true) ∧
      (∃ t : State, exec .brk sample = .next t) ∧ ∃ t : State, step (interrupted .irq) = .next t :=
  ⟨by decide, ⟨_, rfl⟩, _, rfl⟩

/-- The cell of an address of the unexpanded map is the address itself. -/
def ownCell (a : Addr) : Handler → Prop
  | .ram c | .rom c | .colour c => c = a
  | _ => True

theorem optionalRam_ownCell (b : Bool) (a : Addr) : ownCell a (optionalRam b a) := by
  cases b <;> simp [optionalRam, ownCell]

theorem aliasHandler_ownCell (k : ChipSet) (a : Addr) : ownCell a (aliasHandler k a) := by
  unfold aliasHandler; split <;> trivial

theorem ite_ownCell {p : Prop} [Decidable p] {a : Addr} {x y : Handler} (hx : ownCell a x) (hy : ownCell a y) :
    ownCell a (if p then x else y) := by
  by_cases h : p <;> simp only [h, if_true, if_false, hx, hy]

theorem baseHandler_ownCell (a : Addr) : ownCell a (baseHandler vectorCfg a) := by
  unfold baseHandler
  dsimp only
  repeat' apply ite_ownCell
  all_goals first | exact optionalRam_ownCell _ a | exact aliasHandler_ownCell _ a | exact rfl | trivial

theorem witness_StepKeepsConfiguration :
    (∃ t : State, step sample = .next t) ∧ ∀ a : Addr, sample.storedCell a ≠ some 0x8000 := by
  refine ⟨⟨_, rfl⟩, fun a h => ?_⟩
  have own : ownCell a (sample.handler a) := baseHandler_ownCell a
  have e : a = 0x8000 := by
    unfold State.storedCell at h
    split at h <;> rename_i hc <;> (try cases h) <;> rw [hc] at own <;> exact own.symm
  subst e
  exact absurd h (by decide)

/-- A timer/IO chip in free-run mode about to reload. -/
def freeRunning : Via := { Via.reset with acr := 0x40, t1Reload := true }

theorem witness_TimerUnderflow :
    256 * (0 : Byte).toNat + Via.reset.t1l.toNat % 256 = 0 ∧ 256 * (0 : Byte).toNat + Via.reset.t2ll.toNat = 0 ∧
      (1 ≤ [ChipInputs.idle].length ∧ [ChipInputs.idle].length ≤ 0 + 1) ∧
      [ChipInputs.idle, ChipInputs.idle].length = 0 + 2 ∧ Via.reset.acr.getLsbD 6 = false ∧
      freeRunning.acr.getLsbD 6 = true := by decide
theorem witness_TimerModes :
    (Via.reset.acr.getLsbD 6 = false ∧ Via.reset.t1Armed = false ∧ Via.reset.ifr.getLsbD ifrT1 = false) ∧
      (Via.reset.t2Armed = false ∧ Via.reset.ifr.getLsbD ifrT2 = false ∧ Via.reset.t2Hold = false) ∧
      freeRunning.acr.getLsbD 6 = true ∧ freeRunning.t1Hold = false ∧ freeRunning.t1Reload = true ∧
      [ChipInputs.idle].length ≤ freeRunning.t1l.toNat + 1 ∧
      [ChipInputs.idle, ChipInputs.idle].length = freeRunning.t1l.toNat + 2 := by decide
theorem witness_TimerChipRegistersAndLines :
    (6 < 7 ∧ 7 < 8) ∧ (12 : BitVec 4) ≠ 13 ∧ ((15 : BitVec 4) = 1 ∨ (15 : BitVec 4) = 15) := by decide

/-- Decision D30 and rule R623: timer 2 loaded with 2 sets its flag in the fourth chip cycle. -/
theorem test_timer2_underflow :
    let v := ((Via.reset.write 8 2).write 9 0).cycle ChipInputs.idle
    let w := (v.cycle ChipInputs.idle).cycle ChipInputs.idle
    v.t2c = 2 ∧ w.t2c = 0 ∧ w.ifr = 0 ∧ (w.cycle ChipInputs.idle).ifr = 0x20 ∧ (w.cycle ChipInputs.idle).t2c = 0xFFFF := by
  decide
/-- Vector V-VIA-16: a rising edge of CA1 latches port A, which a read returns with ACR bit 0 set. -/
theorem test_ca1_latches_port_a :
    let inp : ChipInputs := { ChipInputs.idle with pinA := [(Via.reset.portSel, 0x3C)] }
    let v := ({ Via.reset with pcr := 0x01, acr := 0x01, lastCa1 := false }).cycle inp
    v.ifr = 0x02 ∧ v.ira = 0x3C ∧ v.readValue ChipInputs.idle 15 = 0x3C ∧ (v.clearOnRead 15).ifr = 0x02 ∧
      (v.clearOnRead 1).ifr = 0x00 := by decide
/-- Rule R810: bits 6 to 0 of a snapshot's IFR and IER bytes are taken. -/
theorem test_snapshot_ifr_bit_7_dropped :
    fullVia.wellFormed = true ∧ (fullVia.load Via.reset).ifr = 0x7F ∧ (fullVia.load Via.reset).ier = 0x7F := by decide

theorem witness_FramePeriod :
    Vic.reset.hcount = 0 ∧ Vic.reset.vcount = 0 ∧ Vic.reset.frameComplete = false ∧
      ∃ before after : List Memory,
        before.length < vectorCfg.variant.totalWidth * vectorCfg.variant.totalHeight / 4 ∧
        after.length = vectorCfg.variant.totalWidth * vectorCfg.variant.totalHeight / 4 :=
  ⟨rfl, rfl, rfl, List.replicate 22151 [], List.replicate 22152 [], by rw [List.length_replicate]; decide,
    by rw [List.length_replicate]; decide⟩
theorem witness_VideoRegisterReadback :
    ∀ r ∈ ([0, 5, 15] : List (BitVec 4)), r ≠ 3 ∧ r ≠ 4 ∧ r ≠ 6 ∧ r ≠ 7 ∧ r ≠ 8 ∧ r ≠ 9 := by decide

/-- A video chip with one column and one row, its cursor at the first cell of the matrix. -/
def atFirstCell : Vic :=
  { Vic.reset with
    cr := #v[0, 0, 1, 2, 0, 0xCC, 0, 0, 0, 0, 0, 0, 0, 0, 0, 8]
    hcount := 0, vcount := 0, cursor := 0 }

theorem witness_ChipCyclePixels :
    let g := atFirstCell.geometry vectorCfg
    atFirstCell.Inv vectorCfg ∧ vectorCfg.vblankLines ≤ atFirstCell.vcount ∧ 3 < 4 ∧
      (g.top ≤ atFirstCell.vcount ∧ (atFirstCell.vcount : Int) < g.bottom ∧ (0 : Int) ≤ atFirstCell.hcount - g.left ∧
        (atFirstCell.hcount - g.left : Int) < 8 * g.columns) ∧
      atFirstCell.colour.getLsbD 3 = false ∧ { atFirstCell with colour := 8 }.colour.getLsbD 3 = true := by
  unfold Vic.Inv; decide
theorem witness_ChipCyclePixels_border :
    let v : Vic := { atFirstCell with hcount := 8, cursor := 8 }
    let g := v.geometry vectorCfg
    v.Inv vectorCfg ∧ vectorCfg.vblankLines ≤ v.vcount ∧ ¬((v.hcount - g.left : Int) < 8 * g.columns) := by
  unfold Vic.Inv; decide
theorem witness_ChipCyclePixels_blanked :
    atFirstCell.Inv { vectorCfg with vblankLines := 1 } ∧
      atFirstCell.vcount < { vectorCfg with vblankLines := 1 }.vblankLines := by unfold Vic.Inv; decide

theorem witness_UpdateRunsRoundedTicks : 0 < 3 ∧ (0 : Int) ≤ 0 ∧ (0 : Int) < 1 := by decide

end Sys2Proof.Tests
end

/-! One bus cycle at an address with a RAM handler (rule R113): its read and its write, the byte every address of
the same cell shows, and what a bus write leaves of the address map. -/

namespace Sys2Proof.Proofs.RamHandler

open Sys2Proof Sys2Proof.Machine

theorem busRead_of_ram {s : State} {a c : Addr} (h : s.handler a = .ram c) :
    busRead a s = (rawRead s.mem c, s) := by
  unfold busRead
  rw [h]

theorem busWrite_of_ram {s : State} {a c : Addr} (h : s.handler a = .ram c) (x : Byte) :
    busWrite a x s = { s with mem := rawWrite s.mem c x } := by
  unfold busWrite
  rw [h]

theorem storedCell_of_ram {s : State} {a c : Addr} (h : s.handler a = .ram c) : s.storedCell a = some c := by
  unfold State.storedCell
  rw [h]

theorem peek_of_ram {s : State} {a c : Addr} (h : s.handler a = .ram c) : s.peek a = rawRead s.mem c :=
  congrArg Prod.fst (busRead_of_ram h)

/-- No bus write rebinds a handler, whatever the address it writes. -/
@[simp] theorem handler_busWrite (s : State) (a : Addr) (x : Byte) (b : Addr) :
    (busWrite a x s).handler b = s.handler b :=
  State.handler_congr (busWrite_maps a x s) (busWrite_cfg a x s) b

/-- The cell written holds the byte, in a memory in canonical form. -/
theorem rawRead_busWrite_of_ram {s : State} {a c : Addr} (hw : s.mem.wf = true) (h : s.handler a = .ram c) (x : Byte) :
    rawRead (busWrite a x s).mem c = x := by
  rw [busWrite_of_ram h]
  exact rawRead_rawWrite_same hw c x

/-- Every byte outside the cell written is as before. -/
theorem rawRead_busWrite_of_ram_other {s : State} {a c d : Addr} (h : s.handler a = .ram c) (x : Byte) (hd : d ≠ c) :
    rawRead (busWrite a x s).mem d = rawRead s.mem d := by
  refine busWrite_other x ?_
  rw [storedCell_of_ram h]
  exact fun hcd => hd (Option.some.inj hcd).symm

/-- A mirror of the cell written reads the byte too: the write left its handler as it was. -/
theorem peek_busWrite_of_ram {s : State} {a b c : Addr} (hw : s.mem.wf = true) (ha : s.handler a = .ram c)
    (hb : s.handler b = .ram c) (x : Byte) : (busWrite a x s).peek b = x := by
  have hb' : (busWrite a x s).handler b = .ram c := (handler_busWrite s a x b).trans hb
  rw [peek_of_ram hb', rawRead_busWrite_of_ram hw ha]

/-- Settles O12, from the equations of a read and a write at a RAM handler and the laws of the sparse array. -/
theorem ramCells : Obligations.RamCells := by
  intro s a b c x hw ha
  have hframe : busWrite a x s = { s with mem := (busWrite a x s).mem } := by rw [busWrite_of_ram ha]
  exact ⟨busRead_of_ram ha, hframe, rawRead_busWrite_of_ram hw ha x,
    fun _ hd => rawRead_busWrite_of_ram_other ha x hd, fun hb => peek_busWrite_of_ram hw ha hb x⟩

end Sys2Proof.Proofs.RamHandler

/-! The opcode map as a function of the byte (rules R200, R201), and what `exec` answers for every instruction: the one
run of its program. -/

namespace Sys2Proof.Proofs.OpcodeMap

open Sys2Proof Sys2Proof.Machine

/-- The entry of rule R200's map at a byte has that byte on its own rule's Encoding line: checked at the 256 entries. -/
@[simp] theorem opcode_decodeOpcode (b : Byte) : (decodeOpcode b).opcode = b := by
  revert b
  decide

/-- An entry that carries its byte (JAM, ANC, the undocumented NOPs) carries one its rule lists: checked at the 256
entries. -/
@[simp] theorem wellFormed_decodeOpcode (b : Byte) : (decodeOpcode b).wellFormed = true := by
  revert b
  decide

/-- The opcode function gives TRAP the byte 0x00, whose entry is BRK; so no byte can select TRAP. -/
theorem decodeOpcode_ne_trap (b : Byte) : decodeOpcode b ≠ .trap := by
  intro h
  have hb : b = 0x00 := calc
    b = (decodeOpcode b).opcode := (opcode_decodeOpcode b).symm
    _ = Instr.trap.opcode := congrArg Instr.opcode h
    _ = 0x00 := rfl
  have hbrk : decodeOpcode 0x00 = .brk := by decide
  rw [hb, hbrk] at h
  nomatch h

/-- Every arm of the dispatch is the opcode fetch followed by the body that `Programs.lean` lists for the instruction. -/
theorem exec_eq_runInstr (i : Instr) (s : State) : exec i s = runInstr i (body s.cfg i) s := by
  cases i <;> rfl

/-- No instruction faults or is refused (rules R84, R500). -/
theorem exec_eq_next (i : Instr) (s : State) : exec i s = .next (runCycles (instrProgram s.cfg i) s) :=
  exec_eq_runInstr i s

/-- Settles O2: the map inverts the Encoding lines, and `exec` answers a next state whatever the instruction. -/
theorem everyOpcodeDecodes : Obligations.EveryOpcodeDecodes := by
  intro b
  exact ⟨wellFormed_decodeOpcode b, opcode_decodeOpcode b, decodeOpcode_ne_trap b,
    fun s => ⟨_, exec_eq_next (decodeOpcode b) s⟩⟩

end Sys2Proof.Proofs.OpcodeMap

/-! Compare (rules R349 to R352): the registers `compare` leaves in the words of the comparison it makes, and the
completion of CMP, CPX and CPY in every mode. -/

namespace Sys2Proof.Proofs.Compare

open Sys2Proof Sys2Proof.Machine

/-- An ALU mode takes as many operand bytes as the read mode that stands for it. -/
theorem readBytes_readModeOfAlu (m : AluMode) : readBytes (readModeOfAlu m) = m.operandBytes := by
  cases m <;> rfl

/-- A CPX or CPY mode takes as many operand bytes as the read mode that stands for it. -/
theorem readBytes_readModeOfCpx (m : CpxMode) : readBytes (readModeOfCpx m) = m.operandBytes := by
  cases m <;> rfl

/-- The difference of two bytes modulo 256, in natural numbers. -/
theorem toNat_byte_sub (x v : Byte) : (x - v).toNat = (x.toNat + 256 - v.toNat) % 256 := by
  bv_omega

/-- The registers after comparing `x` with the operand `v`, as the statement of O24 writes them. -/
def compared (x v : Byte) (r : Regs) : Regs :=
  { r with
    c := decide (v.toNat ≤ x.toNat), z := decide (x = v)
    n := decide (128 ≤ (x.toNat + 256 - v.toNat) % 256) }

/-- Rule R349 on the registers: `compare` reads neither D nor any other flag, and changes C, Z and N only. -/
theorem regs_compare (x v : Byte) (c : Cpu) : (c.compare x v).regs = compared x v c.regs := by
  have hz : decide (x - v = 0) = decide (x = v) := decide_eq_decide.mpr sub_eq_zero
  unfold Cpu.compare
  rw [Cpu.setNZ_regs, Regs.setNZ_eq, toNat_byte_sub, hz]
  rfl

/-- The body of CMP is the read class with `compare` of A. -/
theorem exec_cmp (m : AluMode) (s : State) :
    exec (.cmp m) s = runInstr (.cmp m) (readBody (readModeOfAlu m) (fun v c => c.compare c.a v)) s :=
  OpcodeMap.exec_eq_runInstr (.cmp m) s

/-- The body of CPX is the read class with `compare` of X. -/
theorem exec_cpx (m : CpxMode) (s : State) :
    exec (.cpx m) s = runInstr (.cpx m) (readBody (readModeOfCpx m) (fun v c => c.compare c.x v)) s :=
  OpcodeMap.exec_eq_runInstr (.cpx m) s

/-- The body of CPY is the read class with `compare` of Y. -/
theorem exec_cpy (m : CpxMode) (s : State) :
    exec (.cpy m) s = runInstr (.cpy m) (readBody (readModeOfCpx m) (fun v c => c.compare c.y v)) s :=
  OpcodeMap.exec_eq_runInstr (.cpy m) s

/-- CMP compares the operand with A, which the opcode fetch and the address cycles left alone. -/
theorem completesReading_cmp {s : State} {m : AluMode} (hp : s.readPlain (readModeOfAlu m) = true) :
    CompletesReading (.cmp m) (readModeOfAlu m) (fun v r => compared r.a v r) s :=
  completesReading_of (exec_cmp m s) (readBytes_readModeOfAlu m).symm hp (fun v c _ => regs_compare c.a v c)

/-- CPX compares the operand with X. -/
theorem completesReading_cpx {s : State} {m : CpxMode} (hp : s.readPlain (readModeOfCpx m) = true) :
    CompletesReading (.cpx m) (readModeOfCpx m) (fun v r => compared r.x v r) s :=
  completesReading_of (exec_cpx m s) (readBytes_readModeOfCpx m).symm hp (fun v c _ => regs_compare c.x v c)

/-- CPY compares the operand with Y. -/
theorem completesReading_cpy {s : State} {m : CpxMode} (hp : s.readPlain (readModeOfCpx m) = true) :
    CompletesReading (.cpy m) (readModeOfCpx m) (fun v r => compared r.y v r) s :=
  completesReading_of (exec_cpy m s) (readBytes_readModeOfCpx m).symm hp (fun v c _ => regs_compare c.y v c)

/-- Settles O24, from the completion of a read whose action is a compare. -/
theorem comparesComplete : Obligations.ComparesComplete := by
  intro s
  exact ⟨fun _ hp => completesReading_cmp hp, fun _ hp => ⟨completesReading_cpx hp, completesReading_cpy hp⟩⟩

end Sys2Proof.Proofs.Compare

/-! A program as ticks (rules R80, R191): inside a program the tick runs the cycle its step index names, so a program
whose cycles all advance but the last is as many ticks as it has cycles. -/

namespace Sys2Proof.Proofs.ProgramTicks

open Sys2Proof Sys2Proof.Machine

/-- A cycle that is not a program's last: it leaves the program in progress and moves to the next step index. -/
def AdvancesProgram (cyc : Cycle) : Prop :=
  ∀ s : State, (cyc s).cpu.prog = s.cpu.prog ∧ (cyc s).cpu.t = s.cpu.t + 1 ∧ (cyc s).cfg = s.cfg

theorem advancesProgram_readCycle {addr : Cpu → Addr} {eff : Byte → Cpu → Cpu}
    (hprog : ∀ b c, (eff b c).prog = c.prog) (ht : ∀ b c, (eff b c).t = c.t) :
    AdvancesProgram (readCycle advance addr eff) := by
  intro s
  simp [readCycle, hprog, ht]

theorem advancesProgram_pushCycle (v : Cpu → Byte) : AdvancesProgram (pushCycle advance v) := by
  intro s
  simp [pushCycle, writeCycle]

theorem advancesProgram_dummyAtPc : AdvancesProgram dummyAtPc :=
  advancesProgram_readCycle (fun _ _ => rfl) (fun _ _ => rfl)

/-- The other chips' parts of the tick touch neither the CPU nor the parameters. -/
theorem AdvancesProgram.tickWith {cyc : Cycle} (h : AdvancesProgram cyc) (s : State) :
    (tickWith cyc s).cpu.prog = s.cpu.prog ∧ (tickWith cyc s).cpu.t = s.cpu.t + 1 ∧ (tickWith cyc s).cfg = s.cfg := by
  simpa [tickWith_eq] using h (beforeCpu s)

/-- Inside a program the tick runs the cycle the step index names (rule R191). -/
theorem tick_inProgram {s : State} (h : s.cpu.prog ≠ .none) :
    tick s = tickWith (cycleAt (progCycles s.cfg s.cpu.prog) s.cpu.t) s := by
  have hc : cpuCycle (beforeCpu s) = cycleAt (progCycles s.cfg s.cpu.prog) s.cpu.t (beforeCpu s) := by
    -- `simp` drops the boundary arm of the match by `h`
    simp only [cpuCycle, beforeCpu_cpu, beforeCpu_cfg]
  rw [tick, tickWith_eq, tickWith_eq, hc]

/-- At a boundary that selected an interrupt the tick runs the sequence's first cycle (rule R191). -/
theorem tick_ofInterrupt {s : State} {kind : IntKind} (hp : s.cpu.prog = .none) (hn : s.cpu.next = .int kind) :
    tick s = tickWith (interruptStart kind) s := by
  have hc : cpuCycle (beforeCpu s) = interruptStart kind (beforeCpu s) := by
    simp only [cpuCycle, beforeCpu_cpu, hp, hn]
  rw [tick, tickWith_eq, tickWith_eq, hc]

theorem runCycles_singleton (cyc : Cycle) (s : State) : runCycles [cyc] s = tickWith cyc s := by
  rw [runCycles]
  split <;> rfl

theorem runCycles_cons {cyc : Cycle} {s : State} (h : (tickWith cyc s).cpu.prog ≠ .none) (cs : List Cycle) :
    runCycles (cyc :: cs) s = runCycles cs (tickWith cyc s) := by
  rw [runCycles]
  split
  · contradiction
  · rfl

/-- The rest of a program, from the cycle the step index names, is one tick for each of its cycles. -/
theorem runCycles_eq_ticks (cs : List Cycle) {s : State} {j : Nat} (hp : s.cpu.prog ≠ .none) (ht : s.cpu.t = j + 1)
    (hcs : (progCycles s.cfg s.cpu.prog).drop j = cs) (hadv : ∀ cyc ∈ cs.dropLast, AdvancesProgram cyc) :
    runCycles cs s = ticks cs.length s := by
  induction cs generalizing s j with
  | nil => rfl
  | cons cyc cs ih =>
    have hget : (progCycles s.cfg s.cpu.prog)[j]? = some cyc := by
      rw [← List.head?_drop, hcs, List.head?_cons]
    have htick : tick s = tickWith cyc s := by
      rw [tick_inProgram hp, ht, cycleAt, List.getD_eq_getElem?_getD, hget, Option.getD_some]
    rw [List.length_cons, ticks, htick]
    cases cs with
    | nil => exact runCycles_singleton cyc s
    | cons d ds =>
      rw [List.dropLast_cons_cons] at hadv
      obtain ⟨hprog, hidx, hcfg⟩ := (hadv cyc List.mem_cons_self).tickWith s
      have hp' : (tickWith cyc s).cpu.prog ≠ .none := hprog ▸ hp
      have hcs' : (progCycles (tickWith cyc s).cfg (tickWith cyc s).cpu.prog).drop (j + 1) = d :: ds := by
        rw [hprog, hcfg, ← List.tail_drop, hcs, List.tail_cons]
      rw [runCycles_cons hp']
      exact ih hp' (hidx.trans (congrArg (· + 1) ht)) hcs' (fun c hc => hadv c (List.mem_cons_of_mem cyc hc))

end Sys2Proof.Proofs.ProgramTicks

/-! Taking an interrupt (rules R513 to R516): the cycles shared with BRK from the first push to the vector, and the whole
sequence from the boundary that selected it. -/

namespace Sys2Proof.Proofs.Interrupts

open Sys2Proof Sys2Proof.Machine Sys2Proof.Proofs.ProgramTicks

/-- The three pushes of the entry through a vector, a tick each, from the CPU `c` (rule R187). -/
def pushTicks (b : Bool) (c : Cpu) (u : State) : State :=
  writeTick (mk16 0x01 (c.s - 1 - 1)) (c.pImage b)
    (writeTick (mk16 0x01 (c.s - 1)) (loByte c.pc) (writeTick (mk16 0x01 c.s) (hiByte c.pc) u))

/-- The CPU after the last cycle of the entry through a vector whose bytes are `lo` and `hi`. -/
def entered (lo hi : Byte) (c : Cpu) : Cpu :=
  Cpu.jumpHigh hi { c with s := c.s - 1 - 1 - 1, t := c.t + 4, adl := lo, i := true }

/-- The two ticks of the vector reads that end the entry, from the machine `w` after the pushes (rule R187). -/
def vectorTicks (fin : State → State) (vector : Addr) (w : State) (c : Cpu) : State :=
  let lo := busRead vector (beforeCpu w)
  let hi := busRead (vector + 1) (beforeCpu (afterCpu lo.2))
  afterCpu (fin (hi.2.withCpu (entered lo.1 hi.1 c)))

/-- The CPU inside the interrupt sequence, its cycle `t` next. -/
def inSequence (kind : IntKind) (t : Nat) (c : Cpu) : Cpu := { c with prog := .intSeq kind, t := t }

/-- A push that is not the last cycle of its program. -/
theorem runCycles_push (v : Cpu → Byte) (cs : List Cycle) (u : State) {c : Cpu} (hp : c.prog ≠ .none) :
    runCycles (pushCycle advance v :: cs) (u.withCpu c) =
      runCycles cs ((writeTick (mk16 0x01 c.s) (v c) u).withCpu { c with s := c.s - 1, t := c.t + 1 }) :=
  runCycles_write _ _ _ _ _ hp

/-- The tick of a reading cycle, whatever ends the cycle. -/
theorem tickWith_readCycle (fin : State → State) (addr : Cpu → Addr) (eff : Byte → Cpu → Cpu) (u : State) (c : Cpu) :
    tickWith (readCycle fin addr eff) (u.withCpu c) =
      afterCpu (fin ((busRead (addr c) (beforeCpu u)).2.withCpu (eff (busRead (addr c) (beforeCpu u)).1 c))) := by
  rw [tickWith_eq, beforeCpu_withCpu, readCycle_eq]

/-- Entry through a vector, for BRK and the interrupt sequence alike (rules R187, R402, R513). -/
theorem runCycles_enterThroughVector (fin : State → State) (b : Bool) (vector : Addr) (u : State) {c : Cpu}
    (hp : c.prog ≠ .none) :
    runCycles (enterThroughVector fin b vector) (u.withCpu c) = vectorTicks fin vector (pushTicks b c u) c := by
  rw [enterThroughVector, pushPcHigh, pushPcLow, runCycles_push _ _ _ hp, runCycles_push _ _ _ (by exact hp),
    runCycles_push _ _ _ (by exact hp), runCycles_read _ _ _ _ _ (by exact hp), runCycles_singleton, tickWith_readCycle]
  rfl

theorem tickWith_interruptStart (kind : IntKind) (s : State) :
    tickWith (interruptStart kind) s = (readTick s.cpu.pc s).withCpu (inSequence kind 2 s.cpu) :=
  tickWith_readCycle id (fun c => c.pc) (fun _ => inSequence kind 2) s s.cpu

/-- Every cycle of the interrupt sequence between its first and its last advances. -/
theorem interruptSequence_advances (kind : IntKind) :
    ∀ cyc ∈ (interruptSequence kind).tail.dropLast, AdvancesProgram cyc := by
  simp only [interruptSequence, enterThroughVector, List.tail_cons, List.dropLast, List.forall_mem_cons]
  exact ⟨advancesProgram_dummyAtPc, advancesProgram_pushCycle _, advancesProgram_pushCycle _,
    advancesProgram_pushCycle _, advancesProgram_readCycle (fun _ _ => rfl) (fun _ _ => rfl), by simp⟩

/-- Taking an interrupt is seven ticks (rule R187). -/
theorem runCycles_interruptSequence_eq_ticks {s : State} {kind : IntKind} (hp : s.cpu.prog = .none)
    (hn : s.cpu.next = .int kind) : runCycles (interruptSequence kind) s = ticks 7 s := by
  have hbegun := tickWith_interruptStart kind s
  have hprog : (tickWith (interruptStart kind) s).cpu.prog = .intSeq kind := by rw [hbegun]; rfl
  have hidx : (tickWith (interruptStart kind) s).cpu.t = 1 + 1 := by rw [hbegun]; rfl
  have hne : (tickWith (interruptStart kind) s).cpu.prog ≠ .none := by rw [hprog]; nofun
  have hrest : (progCycles (tickWith (interruptStart kind) s).cfg (tickWith (interruptStart kind) s).cpu.prog).drop 1 =
      (interruptSequence kind).tail := by
    rw [hprog]
    rfl
  calc runCycles (interruptSequence kind) s
    _ = runCycles (interruptSequence kind).tail (tickWith (interruptStart kind) s) := runCycles_cons hne _
    _ = ticks 6 (tickWith (interruptStart kind) s) :=
        runCycles_eq_ticks _ hne hidx hrest (interruptSequence_advances kind)
    _ = ticks 7 s := by rw [← tick_ofInterrupt hp hn]; rfl

/-- The state the interrupt sequence leaves, from any state (rules R513 to R516). -/
theorem runCycles_interruptSequence (kind : IntKind) (s : State) :
    runCycles (interruptSequence kind) s =
      vectorTicks endSequence (vectorOf kind)
        (pushTicks false (inSequence kind 3 s.cpu) (s.afterReads [s.cpu.pc, s.cpu.pc])) (inSequence kind 3 s.cpu) := by
  have hne : ∀ t, (inSequence kind t s.cpu).prog ≠ .none := nofun
  rw [interruptSequence, runCycles_cons (by rw [tickWith_interruptStart]; exact hne 2), tickWith_interruptStart,
    dummyAtPc, runCycles_read _ _ _ _ _ (hne 2)]
  exact runCycles_enterThroughVector endSequence false (vectorOf kind) (s.afterReads [s.cpu.pc, s.cpu.pc]) (hne 3)

/-- The bytes the sequence pushes, at their offsets from S (rules R31, R513). -/
theorem pushTicks_inSequence (b : Bool) (kind : IntKind) (t : Nat) (s u : State) :
    pushTicks b (inSequence kind t s.cpu) u =
      writeTick (s.stackAt 254) (s.cpu.pImage b)
        (writeTick (s.stackAt 255) (loByte s.cpu.pc) (writeTick (s.stackAt 0) (hiByte s.cpu.pc) u)) := by
  have h0 : s.cpu.s = s.cpu.s + 0 := by bv_omega
  have h1 : s.cpu.s - 1 = s.cpu.s + 255 := by bv_omega
  have h2 : s.cpu.s - 1 - 1 = s.cpu.s + 254 := by bv_omega
  unfold State.stackAt
  rw [← h0, ← h1, ← h2]
  rfl

/-- The registers after the entry: S down by three, I set, PC from the vector. -/
theorem regs_entered (lo hi : Byte) (c : Cpu) :
    (entered lo hi c).regs = { c.regs with s := c.s - 3, i := true, pc := mk16 hi lo } := by
  have hs : c.s - 1 - 1 - 1 = c.s - 3 := by bv_omega
  rw [entered, hs]
  rfl

/-- A step from a boundary that selected an interrupt is its sequence. -/
theorem step_ofInterrupt {s : State} {kind : IntKind} (hp : s.cpu.prog = .none) (hn : s.cpu.next = .int kind) :
    step s = .next (runCycles (interruptSequence kind) s) := by
  simp only [step, hp, hn]

/-- What the vector reads of the interrupt sequence leave: the registers of the entry, no program, an opcode fetch next
with no boundary decision (rule R516), and the memory as the pushes left it. -/
theorem vectorTicks_endSequence (vector : Addr) (w : State) (c : Cpu) :
    let lo := busRead vector (beforeCpu w)
    let hi := busRead (vector + 1) (beforeCpu (afterCpu lo.2))
    let t := vectorTicks endSequence vector w c
    t.cpu.regs = { c.regs with s := c.s - 3, i := true, pc := mk16 hi.1 lo.1 } ∧
      t.cpu.prog = .none ∧ t.cpu.next = .fetch ∧ t.mem = hi.2.mem := by
  intro lo hi t
  have hcpu : t.cpu = { entered lo.1 hi.1 c with next := .fetch, prog := .none, t := 0 } := afterCpu_cpu _
  have hmem : t.mem = hi.2.mem := afterCpu_mem _
  rw [hcpu]
  exact ⟨regs_entered lo.1 hi.1 c, rfl, rfl, hmem⟩

/-- Settles O37: the step is the run of the interrupt sequence, which is seven ticks, and whose pushes and vector reads
leave what the statement says. -/
theorem interruptEntry : Obligations.InterruptEntry := by
  intro s kind hp hn pc u w vector lo hi
  have hvector : vectorOf kind = vector := by cases kind <;> rfl
  have hrun : runCycles (interruptSequence kind) s = vectorTicks endSequence vector w (inSequence kind 3 s.cpu) := by
    rw [runCycles_interruptSequence, pushTicks_inSequence, hvector]
  refine ⟨_, step_ofInterrupt hp hn, runCycles_interruptSequence_eq_ticks hp hn, ?_⟩
  rw [hrun]
  exact vectorTicks_endSequence vector w (inSequence kind 3 s.cpu)

end Sys2Proof.Proofs.Interrupts

/-! The boundary decision (rules R510 to R512), case by case. -/

namespace Sys2Proof.Proofs.Boundary

open Sys2Proof Sys2Proof.Machine

theorem boundaryNext_of_delay {s : State} (h : s.cpu.irqDelay = true) : boundaryNext s = .fetch := by
  rw [boundaryNext, if_pos h]

theorem boundaryNext_of_nmiPending {s : State} (hd : s.cpu.irqDelay = false) (hn : s.lines.nmiPending = true) :
    boundaryNext s = .int .nmi := by
  rw [boundaryNext, hd, if_neg Bool.false_ne_true, if_pos hn]

/-- With no delay and no NMI request the maskable line and I decide. -/
theorem boundaryNext_of_maskable {s : State} (hd : s.cpu.irqDelay = false) (hn : s.lines.nmiPending = false) :
    boundaryNext s = if s.lines.irqLevel = true ∧ s.cpu.i = false then .int .irq else .fetch := by
  simp only [boundaryNext, hd, hn, Bool.false_eq_true, if_false, Bool.and_eq_true, Bool.not_eq_true']

theorem boundaryLines_of_delay {s : State} (h : s.cpu.irqDelay = true) : boundaryLines s = s.lines := by
  rw [boundaryLines, if_pos h]

theorem boundaryLines_of_noDelay {s : State} (h : s.cpu.irqDelay = false) :
    boundaryLines s = { s.lines with nmiPending := false } := by
  rw [boundaryLines, h, if_neg Bool.false_ne_true]

/-- The decision clears requests only: the levels of the lines are the chips' own. -/
theorem boundaryLines_levels (s : State) :
    (boundaryLines s).irqLevel = s.lines.irqLevel ∧ (boundaryLines s).nmiLevel = s.lines.nmiLevel := by
  unfold boundaryLines
  split <;> exact ⟨rfl, rfl⟩

/-- Settles O38, from the decision's four cases: delayed, NMI pending, IRQ taken, nothing taken. -/
theorem boundaryDecision : Obligations.BoundaryDecision := by
  intro u c e
  obtain ⟨hirq, hnmi⟩ := boundaryLines_levels (u.withCpu c)
  refine ⟨rfl, rfl, hirq, hnmi, fun hd => ?_, fun hd hn => ?_, fun hd hn => ?_⟩
  · exact ⟨boundaryNext_of_delay (s := u.withCpu c) hd,
      congrArg Lines.nmiPending (boundaryLines_of_delay (s := u.withCpu c) hd)⟩
  · exact ⟨boundaryNext_of_nmiPending (s := u.withCpu c) hd hn,
      congrArg Lines.nmiPending (boundaryLines_of_noDelay (s := u.withCpu c) hd)⟩
  · have hnext : e.cpu.next = if u.lines.irqLevel = true ∧ c.i = false then .int .irq else .fetch :=
      boundaryNext_of_maskable (s := u.withCpu c) hd hn
    rw [hnext]
    by_cases htaken : u.lines.irqLevel = true ∧ c.i = false
    · simp [htaken]
    · simp [htaken]

end Sys2Proof.Proofs.Boundary

/-! What a CPU read of a video register returns after a CPU write (rules R701, R702, R704; decision D44). -/

namespace Sys2Proof.Proofs.VideoRegisters

open Sys2Proof Sys2Proof.Machine

/-- The registers that keep a written byte whole and answer with it: all but CR3, whose bit 7 is a raster bit, CR4, the
line counter, and CR6 to CR9, the host's light pen and paddles. -/
def IsStored (r : BitVec 4) : Prop := r ≠ 3 ∧ r ≠ 4 ∧ r ≠ 6 ∧ r ≠ 7 ∧ r ≠ 8 ∧ r ≠ 9

theorem toNat_ne_of_isStored {r : BitVec 4} (hr : IsStored r) :
    r.toNat ≠ 3 ∧ r.toNat ≠ 4 ∧ r.toNat ≠ 6 ∧ r.toNat ≠ 7 ∧ r.toNat ≠ 8 ∧ r.toNat ≠ 9 := by
  obtain ⟨h3, h4, h6, h7, h8, h9⟩ := hr
  refine ⟨?_, ?_, ?_, ?_, ?_, ?_⟩ <;> bv_omega

theorem read_of_isStored {r : BitVec 4} (hr : IsStored r) (inp : HostInputs) (v : Vic) : v.read inp r = v.reg r := by
  obtain ⟨h3, h4, h6, h7, h8, h9⟩ := toNat_ne_of_isStored hr
  unfold Vic.read
  split
  case h_7 => rfl
  all_goals contradiction

theorem write_of_isStored {r : BitVec 4} (hr : IsStored r) (x : Byte) (v : Vic) :
    v.write r x = { v with cr := v.cr.set r.toNat x } := by
  obtain ⟨h3, h4, h6, h7, h8, h9⟩ := toNat_ne_of_isStored hr
  unfold Vic.write
  split
  case h_7 => rfl
  all_goals contradiction

/-- The raw byte at a register just stored to. -/
theorem reg_set_same (r : BitVec 4) (x : Byte) (v : Vic) : { v with cr := v.cr.set r.toNat x }.reg r = x :=
  Vector.getElem_set_self r.isLt

theorem read_write_of_isStored {r : BitVec 4} (hr : IsStored r) (inp : HostInputs) (x : Byte) (v : Vic) :
    (v.write r x).read inp r = x := by
  rw [write_of_isStored hr, read_of_isStored hr, reg_set_same]

/-- The store to CR3 keeps the raster bit of the raw byte and takes the other seven bits. -/
theorem reg_write_three (x : Byte) (v : Vic) : (v.write 3 x).reg 3 = (v.reg 3 &&& 0x80) ||| (x &&& 0x7F) :=
  reg_set_same 3 _ v

/-- No write of a register reaches the line counter. -/
@[simp] theorem write_vcount (r : BitVec 4) (x : Byte) (v : Vic) : (v.write r x).vcount = v.vcount := by
  unfold Vic.write
  split <;> rfl

/-- The line counter's low bit over seven bits of a byte, as a number. -/
theorem rasterBit_append_eq (n : Nat) (b : Byte) :
    BitVec.ofNat 1 n ++ b.setWidth 7 = BitVec.ofNat 8 (128 * (n % 2) + b.toNat % 128) := by
  apply BitVec.eq_of_toNat_eq
  have hlow : b.toNat % 128 < 2 ^ 7 := Nat.mod_lt _ (by decide)
  rw [BitVec.toNat_append, BitVec.toNat_setWidth, BitVec.toNat_ofNat, BitVec.toNat_ofNat,
    ← Nat.shiftLeft_add_eq_or_of_lt hlow, Nat.shiftLeft_eq]
  omega

/-- Masking the raster bit away leaves the low seven bits of what was written. -/
theorem setWidth_seven_merge (old x : Byte) :
    ((old &&& 0x80) ||| (x &&& 0x7F)).setWidth 7 = x.setWidth 7 := by
  have hhigh : BitVec.setWidth 7 (0x80 : Byte) = 0#7 := by decide
  have hlow : BitVec.setWidth 7 (0x7F : Byte) = BitVec.allOnes 7 := by decide
  rw [BitVec.setWidth_or, BitVec.setWidth_and, BitVec.setWidth_and, hhigh, hlow, BitVec.and_zero, BitVec.zero_or,
    BitVec.and_allOnes]

theorem read_write_three (inp : HostInputs) (x : Byte) (v : Vic) :
    (v.write 3 x).read inp 3 = BitVec.ofNat 8 (128 * (v.vcount % 2) + x.toNat % 128) :=
  calc (v.write 3 x).read inp 3
      = BitVec.ofNat 1 v.vcount ++ ((v.write 3 x).reg 3).setWidth 7 := rfl
    _ = BitVec.ofNat 1 v.vcount ++ x.setWidth 7 := by rw [reg_write_three, setWidth_seven_merge]
    _ = BitVec.ofNat 8 (128 * (v.vcount % 2) + x.toNat % 128) := rasterBit_append_eq v.vcount x

/-- Rule R704: the horizontal position is in no register. -/
theorem read_withHcount (inp : HostInputs) (r : BitVec 4) (v : Vic) (h : Nat) :
    { v with hcount := h }.read inp r = v.read inp r := rfl

/-- Settles O57: by a lemma each for the stored registers, CR3 and the frame. CR4 and CR6 to CR9 take no write and
their reads do not look at the raw byte, so those hold by evaluation. -/
theorem videoRegisterReadback : Obligations.VideoRegisterReadback := by
  intro v inp r x
  refine ⟨fun h3 h4 h6 h7 h8 h9 => ?_, read_write_three inp x v, rfl, rfl, rfl, rfl, rfl, write_vcount r x v,
    read_withHcount inp r v⟩
  exact read_write_of_isStored ⟨h3, h4, h6, h7, h8, h9⟩ inp x v

end Sys2Proof.Proofs.VideoRegisters

/-! Decoding after encoding (rules R170, R171, R200): the Encoding lines of the instructions against the opcode map. -/

namespace Sys2Proof.Proofs.Encoding

open Sys2Proof Sys2Proof.Laws

/-- The agreement of Encoding line and opcode map, for every constructor. -/
theorem encoding_agrees : ∀ i : Instr, DecodeEncode.Statement i
  | .lda m => DecodeEncode.lda m | .ldx m => DecodeEncode.ldx m | .ldy m => DecodeEncode.ldy m
  | .sta m => DecodeEncode.sta m | .stx m => DecodeEncode.stx m | .sty m => DecodeEncode.sty m
  | .tax => DecodeEncode.tax | .tay => DecodeEncode.tay | .txa => DecodeEncode.txa | .tya => DecodeEncode.tya
  | .tsx => DecodeEncode.tsx | .txs => DecodeEncode.txs
  | .pha => DecodeEncode.pha | .php => DecodeEncode.php | .pla => DecodeEncode.pla | .plp => DecodeEncode.plp
  | .adc m => DecodeEncode.adc m | .sbc m => DecodeEncode.sbc m
  | .and m => DecodeEncode.and m | .ora m => DecodeEncode.ora m | .eor m => DecodeEncode.eor m
  | .cmp m => DecodeEncode.cmp m | .cpx m => DecodeEncode.cpx m | .cpy m => DecodeEncode.cpy m
  | .bit m => DecodeEncode.bit m | .inc m => DecodeEncode.inc m | .dec m => DecodeEncode.dec m
  | .inx => DecodeEncode.inx | .iny => DecodeEncode.iny | .dex => DecodeEncode.dex | .dey => DecodeEncode.dey
  | .asl m => DecodeEncode.asl m | .lsr m => DecodeEncode.lsr m | .rol m => DecodeEncode.rol m
  | .ror m => DecodeEncode.ror m
  | .bpl => DecodeEncode.bpl | .bmi => DecodeEncode.bmi | .bvc => DecodeEncode.bvc | .bvs => DecodeEncode.bvs
  | .bcc => DecodeEncode.bcc | .bcs => DecodeEncode.bcs | .bne => DecodeEncode.bne | .beq => DecodeEncode.beq
  | .jmp m => DecodeEncode.jmp m | .jsr => DecodeEncode.jsr | .rts => DecodeEncode.rts | .brk => DecodeEncode.brk
  | .rti => DecodeEncode.rti
  | .clc => DecodeEncode.clc | .sec => DecodeEncode.sec | .cli => DecodeEncode.cli | .sei => DecodeEncode.sei
  | .cld => DecodeEncode.cld | .sed => DecodeEncode.sed | .clv => DecodeEncode.clv | .nop => DecodeEncode.nop
  | .jam op => DecodeEncode.jam op | .nopUndoc m op => DecodeEncode.nopUndoc m op
  | .slo m => DecodeEncode.slo m | .rla m => DecodeEncode.rla m | .sre m => DecodeEncode.sre m
  | .rra m => DecodeEncode.rra m | .sax m => DecodeEncode.sax m | .lax m => DecodeEncode.lax m
  | .dcp m => DecodeEncode.dcp m | .isc m => DecodeEncode.isc m | .anc op => DecodeEncode.anc op
  | .alr => DecodeEncode.alr | .arr => DecodeEncode.arr | .sbx => DecodeEncode.sbx | .usbc => DecodeEncode.usbc
  | .las => DecodeEncode.las | .ane => DecodeEncode.ane | .lxa => DecodeEncode.lxa
  | .sha m => DecodeEncode.sha m | .shx => DecodeEncode.shx | .shy => DecodeEncode.shy | .tas => DecodeEncode.tas
  | .trap => DecodeEncode.trap

/-- The opcode map inverts the Encoding lines. -/
theorem decodeOpcode_opcode {i : Instr} (hw : i.wellFormed = true) (ht : i ≠ .trap) : decodeOpcode i.opcode = i :=
  (encoding_agrees i).2 hw ht

theorem encode_of_ne_trap (trapByte : Byte) {c : Code} (ht : c.instr ≠ .trap) :
    encode trapByte c = c.instr.opcode :: c.operands := by
  rw [encode, if_neg ht]

/-- What the decoder answers when the operand bytes are all there. -/
theorem decode_cons_of_length (b : Byte) {operands : List Byte}
    (h : operands.length = (decodeOpcode b).operandBytes) (rest : List Byte) :
    decode (b :: (operands ++ rest)) = .ok ({ instr := decodeOpcode b, operands := operands }, rest) := by
  have hlen : ¬(operands ++ rest).length < operands.length := by
    rw [List.length_append]; omega
  simp only [decode, ← h, if_neg hlen, List.take_left, List.drop_left]

/-- Settles O1: the opcode byte selects the instruction, and its operand count splits the bytes after it. -/
theorem decodeOfEncode : Obligations.DecodeOfEncode := by
  intro trapByte c rest hw ht
  simp only [Code.wellFormed, Bool.and_eq_true, beq_iff_eq] at hw
  obtain ⟨hinstr, hlen⟩ := hw
  have hdec : decodeOpcode c.instr.opcode = c.instr := decodeOpcode_opcode hinstr ht
  rw [encode_of_ne_trap trapByte ht, List.cons_append, decode_cons_of_length _ (by rw [hdec, hlen]), hdec]

/-- Settles O3: each word is a closed computation of the decoder. -/
theorem wordsDecode : Obligations.WordsDecode := by
  unfold Obligations.WordsDecode
  decide

end Sys2Proof.Proofs.Encoding

/-! What the cycles of a program can do, said once: the bodies of all instructions fall into a few shapes; every cycle
touches the machine through bus accesses and its own CPU only; and inside a body every cycle but the last moves to the next
step index or ends the program, which the last one does. -/

namespace Sys2Proof.Proofs.Cycles

open Sys2Proof Sys2Proof.Machine Sys2Proof.Proofs.ProgramTicks

/-! ### The shapes of the bodies -/

/-- The bodies of instructions, by access class. A body of index `false` has no write cycle and calls no callback; those
that may appear under either index are the reading ones. -/
inductive Shaped : Bool → List Cycle → Prop where
  | read (b : Bool) (m : ReadMode) (act : Byte → Cpu → Cpu) : Shaped b (readBody m act)
  | write (m : MemMode) (addr : Cpu → Addr) (out : Cpu → Byte × Cpu) : Shaped true (writeBodyAt m addr out)
  | noWrite (b : Bool) (m : MemMode) : Shaped b (noWriteBody m)
  | modify (m : MemMode) (f : Cpu → Byte → Byte × Cpu) : Shaped true (rmwBody m f)
  | noModify (b : Bool) (m : MemMode) : Shaped b (noRmwBody m)
  | implied (b : Bool) (act : Cpu → Cpu) : Shaped b (impliedBody act)
  | branch (b : Bool) (cond : Cpu → Bool) : Shaped b (branchBody cond)
  | push (v : Cpu → Byte) : Shaped true [dummyAtPc, pushCycle endInstr v]
  | pull (b : Bool) (eff : Byte → Cpu → Cpu) : Shaped b [dummyAtPc, dummyStack, pullCycle endInstr eff]
  | jump (b : Bool) (m : JmpMode) : Shaped b (jmpBody m)
  | call : Shaped true jsrBody
  | subroutineReturn (b : Bool) : Shaped b rtsBody
  | software : Shaped true brkBody
  | interruptReturn (b : Bool) : Shaped b rtiBody
  | trap : Shaped true trapBody

theorem Shaped.byPolicy {b : Bool} {reference asNop : List Cycle} (hr : Shaped b reference) (hn : Shaped b asNop)
    (k : MachineCfg) (i : Instr) : Shaped b (byPolicy k i reference asNop) := by
  unfold Machine.byPolicy
  split
  · exact hn
  · exact hr

theorem shaped_readByPolicy (b : Bool) (k : MachineCfg) (i : Instr) (m : ReadMode) (act : Byte → Cpu → Cpu) :
    Shaped b (readByPolicy k i m act) :=
  (Shaped.read b m act).byPolicy (.read b m _) k i

theorem shaped_combinedBody (k : MachineCfg) (i : Instr) (m : StoreMode) (f : Cpu → Byte → Byte × Cpu) :
    Shaped true (combinedBody k i m f) :=
  (Shaped.modify _ f).byPolicy (.noModify true _) k i

theorem shaped_unstableStore (k : MachineCfg) (i : Instr) (m : MemMode) (out : Cpu → Byte × Cpu) :
    Shaped true (unstableStore k i m out) :=
  (Shaped.write m _ out).byPolicy (.noWrite true m) k i

theorem shaped_shiftBody (f : Cpu → Byte → Byte × Cpu) (m : ShiftMode) :
    Shaped (memModeOfShift m).isSome (shiftBody f m) := by
  cases m
  case acc => exact .implied false (fun c => { (f c c.a).2 with a := (f c c.a).1 })
  all_goals exact .modify _ f

theorem shaped_nopUndocBody (b : Bool) (m : NopMode) : Shaped b (nopUndocBody m) := by
  cases m
  case imp => exact .implied b _
  case imm => exact .read b .imm (fun _ c => c)
  all_goals exact .read b (.mem _) (fun _ c => c)

/-- The shape of every instruction's body; one that stores in no form has a reading shape. -/
theorem shaped_body (k : MachineCfg) : ∀ i : Instr, Shaped (mayStore i) (body k i)
  | .lda _ | .ldx _ | .ldy _ | .adc _ | .sbc _ => .read false _ _
  | .and _ | .ora _ | .eor _ => by simp only [body, andBody, oraBody, eorBody]; exact .read false _ _
  | .cmp _ | .cpx _ | .cpy _ | .bit _ => by simp only [body, cmpBody, cpxBody, cpyBody, bitBody]; exact .read false _ _
  | .sta _ | .stx _ | .sty _ => .write _ _ _
  | .tax | .tay | .txa | .tya | .tsx | .txs | .inx | .iny | .dex | .dey => .implied false _
  | .clc | .sec | .cli | .sei | .cld | .sed | .clv | .nop | .jam _ => .implied false _
  | .pha | .php => .push _
  | .pla | .plp => .pull false _
  | .inc _ | .dec _ => .modify _ _
  | .asl m | .lsr m | .rol m | .ror m => shaped_shiftBody _ m
  | .bmi | .bvs | .bcs | .beq => .branch false _
  | .bpl | .bvc | .bcc | .bne => by simp only [body, bplBody, bvcBody, bccBody, bneBody]; exact .branch false _
  | .jmp m => .jump false m
  | .jsr => .call
  | .rts => .subroutineReturn false
  | .brk => .software
  | .rti => .interruptReturn false
  | .nopUndoc m _ => shaped_nopUndocBody false m
  | .slo m | .rla m | .sre m | .rra m | .dcp m | .isc m => shaped_combinedBody k _ m _
  | .sax m => (Shaped.write (memModeOfSax m) _ _).byPolicy (.noWrite true _) k (.sax m)
  | .lax _ | .anc _ | .alr | .arr | .sbx | .usbc | .las | .ane | .lxa => shaped_readByPolicy false k _ _ _
  | .sha _ | .shx | .shy | .tas => shaped_unstableStore k _ _ _
  | .trap => .trap

/-! ### What cycles keep -/

/-- A property that no part of a tick but a bus write or a host call can break. -/
structure KeptByReads (P : State → Prop) : Prop where
  before : ∀ s, P s → P (beforeCpu s)
  after : ∀ s, P s → P (afterCpu s)
  withCpu : ∀ s c, P s → P (s.withCpu c)
  lines : ∀ s, P s → P { s with lines := boundaryLines s }
  read : ∀ a s, P s → P (busRead a s).2

/-- A property that no part of a tick can break. -/
structure KeptByBus (P : State → Prop) : Prop extends KeptByReads P where
  write : ∀ a x s, P s → P (busWrite a x s)
  call : ∀ k s, P s → P { s with hostCalls := k :: s.hostCalls }

/-- A cycle that touches the machine by bus reads and its own CPU only. -/
def ReadsOnly (cyc : Cycle) : Prop := ∀ P, KeptByReads P → ∀ s, P s → P (cyc s)

/-- A cycle that touches the machine by bus accesses, host calls and its own CPU only. -/
def BusOnly (cyc : Cycle) : Prop := ∀ P, KeptByBus P → ∀ s, P s → P (cyc s)

theorem ReadsOnly.busOnly {cyc : Cycle} (h : ReadsOnly cyc) : BusOnly cyc := fun P hP => h P hP.toKeptByReads

/-- The ways a cycle ends: it goes on, or it ends its program; `true` adds the callback of TRAP. -/
inductive Closing : Bool → (State → State) → Prop where
  | id (b : Bool) : Closing b id
  | advance (b : Bool) : Closing b advance
  | endInstr (b : Bool) : Closing b endInstr
  | endSequence (b : Bool) : Closing b endSequence
  | trap : Closing true (fun s => Machine.endInstr (trapAction s))

/-- How a cycle is made: one bus access, chosen by the registers and the parameters; `true` adds writes and callbacks. -/
inductive Made : Bool → Cycle → Prop where
  | read {b : Bool} {fin : State → State} (hf : Closing b fin) (addr : Cpu → Addr) (eff : Byte → Cpu → Cpu) :
      Made b (readCycle fin addr eff)
  | write {fin : State → State} (hf : Closing true fin) (addr : Cpu → Addr) (out : Cpu → Byte × Cpu) :
      Made true (writeCycle fin addr out)
  | select {b : Bool} {cyc : Cycle} (f : MachineCfg → Cpu → Cycle) (hf : ∀ k c, Made b (f k c))
      (hcyc : ∀ s, cyc s = f s.cfg s.cpu s) : Made b cyc

/-! ### The cycles of each shape -/

theorem made_fetchCycle (b : Bool) (i : Instr) : Made b (fetchCycle i) :=
  .select (fun k _ => readCycle id (fun c => c.pc) (fun _ c => c.fetchedOpcode k i)) (fun _ _ => .read (.id b) _ _)
    (fun _ => rfl)

theorem made_uncarriedCycle (b : Bool) (m : MemMode) (act : Byte → Cpu → Cpu) : Made b (uncarriedCycle m act) := by
  refine .select (fun _ c => if c.cross then carryCycle m else operandCycle m act) (fun _ c => ?_) (fun s => ?_)
  · split
    · exact .read (.advance b) _ _
    · exact .read (.endInstr b) _ _
  · rw [uncarriedCycle]
    split <;> rfl

theorem made_branchOffset (b : Bool) (cond : Cpu → Bool) (eff : Byte → Cpu → Cpu) :
    Made b (fun s => fetchByte (if cond s.cpu then advance else endInstr) eff s) := by
  refine .select (fun _ c => fetchByte (if cond c then advance else endInstr) eff) (fun _ c => .read ?_ _ _) (fun _ => rfl)
  split
  · exact .advance b
  · exact .endInstr b

theorem made_branchTaken (b : Bool) : Made b branchTaken := by
  refine .select
    (fun _ c =>
      if hiByte c.branchTarget = hiByte c.pc then
        readCycle endInstr (fun c => c.pc) (fun _ c => { c with pc := c.branchTarget, ea := c.branchTarget, irqDelay := true })
      else
        readCycle advance (fun c => c.pc)
          (fun _ c => { c with pc := mk16 (hiByte c.pc) (loByte c.branchTarget), ea := c.branchTarget }))
    (fun _ c => ?_) (fun s => ?_)
  · split
    · exact .read (.endInstr b) _ _
    · exact .read (.advance b) _ _
  · rw [branchTaken]
    split <;> rfl

theorem made_fetchByte {b : Bool} {fin : State → State} (hf : Closing b fin) (eff : Byte → Cpu → Cpu) :
    Made b (fetchByte fin eff) :=
  .read hf _ _

theorem made_pushCycle {fin : State → State} (hf : Closing true fin) (v : Cpu → Byte) : Made true (pushCycle fin v) :=
  .write hf _ _

theorem made_addressCycles (b : Bool) (m : MemMode) : ∀ cyc ∈ addressCycles m, Made b cyc := by
  have hfetch := made_fetchByte (.advance b)
  have hread := Made.read (.advance b)
  cases m <;> simp only [addressCycles, List.forall_mem_cons]
  case zp => exact ⟨hfetch _, by simp⟩
  case zpx | zpy => exact ⟨hfetch _, hread _ _, by simp⟩
  case abs | absx | absy => exact ⟨hfetch _, hfetch _, by simp⟩
  case izx => exact ⟨hfetch _, hread _ _, hread _ _, hread _ _, by simp⟩
  case izy => exact ⟨hfetch _, hread _ _, hread _ _, by simp⟩

theorem made_carryCycles (b : Bool) (m : MemMode) : ∀ cyc ∈ carryCycles m, Made b cyc := by
  intro cyc h
  unfold carryCycles at h
  split at h
  · rw [List.mem_singleton.mp h]; exact .read (.advance b) _ _
  · exact absurd h List.not_mem_nil

theorem made_enterThroughVector {fin : State → State} (hf : Closing true fin) (b : Bool) (vector : Addr) :
    ∀ cyc ∈ enterThroughVector fin b vector, Made true cyc := by
  have hpush := made_pushCycle (.advance true)
  simp only [enterThroughVector, List.forall_mem_cons]
  exact ⟨hpush _, hpush _, hpush _, .read (.advance true) _ _, .read hf _ _, by simp⟩

/-- Every cycle of a body is made of one bus access; of a reading shape, a read. -/
theorem Shaped.made {b : Bool} {cs : List Cycle} (h : Shaped b cs) : ∀ cyc ∈ cs, Made b cyc := by
  have hfetch := made_fetchByte (.advance b)
  have hread := Made.read (.advance b)
  have hlast := Made.read (.endInstr b)
  have haddr := made_addressCycles b
  have hcarry := made_carryCycles b
  have hwrite := Made.write (.advance true)
  have hpush := made_pushCycle (.advance true)
  have hlastWrite := Made.write (.endInstr true)
  cases h with
  | read _ m act =>
    cases m with
    | imm => simp only [readBody, List.forall_mem_cons]; exact ⟨hlast _ _, by simp⟩
    | mem m =>
      simp only [readBody, List.forall_mem_append]
      refine ⟨haddr m, ?_⟩
      split <;> simp only [List.forall_mem_cons]
      · exact ⟨made_uncarriedCycle b m act, hlast _ _, by simp⟩
      · exact ⟨hlast _ _, by simp⟩
  | write m addr out =>
    simp only [writeBodyAt, List.forall_mem_append, List.forall_mem_cons]
    exact ⟨⟨haddr m, hcarry m⟩, hlastWrite _ _, by simp⟩
  | noWrite _ m =>
    simp only [noWriteBody, List.forall_mem_append, List.forall_mem_cons]
    exact ⟨⟨haddr m, hcarry m⟩, hlast _ _, by simp⟩
  | modify m f =>
    simp only [rmwBody, List.forall_mem_append, List.forall_mem_cons]
    exact ⟨⟨haddr m, hcarry m⟩, hread _ _, hwrite _ _, hlastWrite _ _, by simp⟩
  | noModify _ m =>
    simp only [noRmwBody, List.forall_mem_append, List.forall_mem_cons]
    exact ⟨⟨haddr m, hcarry m⟩, hread _ _, hread _ _, hlast _ _, by simp⟩
  | implied _ act => simp only [impliedBody, List.forall_mem_cons]; exact ⟨hlast _ _, by simp⟩
  | branch _ cond =>
    simp only [branchBody, List.forall_mem_cons]
    exact ⟨made_branchOffset b cond _, made_branchTaken b, hlast _ _, by simp⟩
  | push v => simp only [List.forall_mem_cons]; exact ⟨hread _ _, hlastWrite _ _, by simp⟩
  | pull _ eff => simp only [List.forall_mem_cons]; exact ⟨hread _ _, hread _ _, hlast _ _, by simp⟩
  | jump _ m =>
    cases m <;> simp only [jmpBody, List.forall_mem_cons]
    case abs => exact ⟨hfetch _, hlast _ _, by simp⟩
    case ind => exact ⟨hfetch _, hfetch _, hread _ _, hlast _ _, by simp⟩
  | call =>
    simp only [jsrBody, List.forall_mem_cons]
    exact ⟨hfetch _, hread _ _, hpush _, hpush _, hlast _ _, by simp⟩
  | subroutineReturn =>
    simp only [rtsBody, List.forall_mem_cons]
    exact ⟨hread _ _, hread _ _, hread _ _, hread _ _, hlast _ _, by simp⟩
  | software =>
    simp only [brkBody, List.forall_mem_cons]
    exact ⟨hfetch _, made_enterThroughVector (.endInstr true) _ _⟩
  | interruptReturn =>
    simp only [rtiBody, returnFromInterrupt, List.forall_mem_cons]
    exact ⟨hread _ _, hread _ _, hread _ _, hread _ _, hlast _ _, by simp⟩
  | trap => simp only [trapBody, List.forall_mem_cons]; exact ⟨.read .trap _ _, by simp⟩

theorem made_interruptStart (kind : IntKind) : Made true (interruptStart kind) := .read (.id true) _ _

theorem made_interruptSequence (kind : IntKind) : ∀ cyc ∈ interruptSequence kind, Made true cyc := by
  simp only [interruptSequence, List.forall_mem_cons]
  exact ⟨made_interruptStart kind, .read (.advance true) _ _, made_enterThroughVector (.endSequence true) _ _⟩

theorem Made.ofReads {b : Bool} {cyc : Cycle} (h : Made b cyc) (hb : b = false) : Made true cyc := by
  induction h with
  | @read b fin hf addr eff =>
    subst hb
    refine .read ?_ addr eff
    cases hf with
    | id => exact .id true
    | advance => exact .advance true
    | endInstr => exact .endInstr true
    | endSequence => exact .endSequence true
  | write => nomatch hb
  | select f _ hcyc ih => exact .select f (fun k c => ih k c hb) hcyc

theorem Made.either {b : Bool} {cyc : Cycle} (h : Made b cyc) : Made true cyc := by
  cases b
  · exact h.ofReads rfl
  · exact h

theorem made_instrProgram (k : MachineCfg) (i : Instr) : ∀ cyc ∈ instrProgram k i, Made true cyc := by
  simp only [instrProgram, List.forall_mem_cons]
  exact ⟨made_fetchCycle true i, fun c hc => ((shaped_body k i).made c hc).either⟩

theorem made_progCycles (k : MachineCfg) (p : Prog) : ∀ cyc ∈ progCycles k p, Made true cyc := by
  cases p with
  | none => simp [progCycles]
  | instr op => exact made_instrProgram k _
  | intSeq kind => exact made_interruptSequence kind
  | trap => exact made_instrProgram k _

/-! ### What made cycles touch -/

theorem readsOnly_endInstr : ReadsOnly endInstr := fun _ hP s hs => hP.withCpu _ _ (hP.lines s hs)

theorem readsOnly_endSequence : ReadsOnly endSequence := fun _ hP s hs => hP.withCpu s _ hs

theorem Closing.readsOnly {fin : State → State} (h : Closing false fin) : ReadsOnly fin := by
  cases h with
  | id => exact fun _ _ _ hs => hs
  | advance => exact fun _ hP s hs => hP.withCpu s _ hs
  | endInstr => exact readsOnly_endInstr
  | endSequence => exact readsOnly_endSequence

/-- The callback's accesses are bus accesses, its call a host call (rule R456). -/
theorem busOnly_trapAction : BusOnly trapAction := by
  intro P hP s hs
  have haccess : ∀ (as : List BusAccess) (u : State), P u → P (as.foldl callbackAccess u) := by
    intro as
    induction as with
    | nil => exact fun u hu => hu
    | cons a as ih =>
      intro u hu
      cases a with
      | read a => exact ih _ (hP.read a u hu)
      | write a v => exact ih _ (hP.write a v u hu)
  unfold trapAction
  dsimp only
  split
  · exact hs
  · split
    · exact hP.withCpu _ _ (haccess _ _ (hP.call _ s hs))
    · exact haccess _ _ (hP.call _ s hs)

theorem Closing.busOnly {b : Bool} {fin : State → State} (h : Closing b fin) : BusOnly fin := by
  cases h with
  | id => exact (Closing.id false).readsOnly.busOnly
  | advance => exact (Closing.advance false).readsOnly.busOnly
  | endInstr => exact readsOnly_endInstr.busOnly
  | endSequence => exact readsOnly_endSequence.busOnly
  | trap => exact fun P hP s hs => readsOnly_endInstr P hP.toKeptByReads _ (busOnly_trapAction P hP s hs)

theorem Made.readsOnly {b : Bool} {cyc : Cycle} (h : Made b cyc) (hb : b = false) : ReadsOnly cyc := by
  induction h with
  | read hf addr eff =>
    subst hb
    exact fun P hP => readCycle_keeps P _ addr eff hP.read hP.withCpu (hf.readsOnly P hP)
  | write => nomatch hb
  | select f _ hcyc ih =>
    intro P hP s hs
    rw [hcyc]
    exact ih _ _ hb P hP s hs

theorem Made.busOnly {b : Bool} {cyc : Cycle} (h : Made b cyc) : BusOnly cyc := by
  induction h with
  | read hf addr eff => exact fun P hP => readCycle_keeps P _ addr eff hP.read hP.withCpu (hf.busOnly P hP)
  | write hf addr out =>
    exact fun P hP s hs => writeCycle_keeps P _ addr out hP.withCpu (hf.busOnly P hP) s (hP.write _ _ s hs)
  | select f _ hcyc ih =>
    intro P hP s hs
    rw [hcyc]
    exact ih _ _ P hP s hs

theorem readsOnly_fetchCycle (i : Instr) : ReadsOnly (fetchCycle i) := (made_fetchCycle false i).readsOnly rfl

theorem Shaped.readsOnly {cs : List Cycle} (h : Shaped false cs) : ∀ cyc ∈ cs, ReadsOnly cyc :=
  fun c hc => (h.made c hc).readsOnly rfl

theorem busOnly_interruptSequence (kind : IntKind) : ∀ cyc ∈ interruptSequence kind, BusOnly cyc :=
  fun c hc => (made_interruptSequence kind c hc).busOnly

theorem busOnly_instrProgram (k : MachineCfg) (i : Instr) : ∀ cyc ∈ instrProgram k i, BusOnly cyc :=
  fun c hc => (made_instrProgram k i c hc).busOnly

theorem busOnly_progCycles (k : MachineCfg) (p : Prog) : ∀ cyc ∈ progCycles k p, BusOnly cyc :=
  fun c hc => (made_progCycles k p c hc).busOnly

/-- What no part of a tick can break, a program's run keeps. -/
theorem KeptByBus.runCycles {P : State → Prop} (hP : KeptByBus P) {cs : List Cycle} (hcs : ∀ cyc ∈ cs, BusOnly cyc)
    {s : State} (hs : P s) : P (runCycles cs s) :=
  runCycles_keeps P cs (fun c hc => tickWith_keeps P c hP.before (hcs c hc P hP) hP.after) s hs

/-- What no part of a tick but a write or a call can break, a reading program's run keeps. -/
theorem KeptByReads.runCycles {P : State → Prop} (hP : KeptByReads P) {cs : List Cycle}
    (hcs : ∀ cyc ∈ cs, ReadsOnly cyc) {s : State} (hs : P s) : P (runCycles cs s) :=
  runCycles_keeps P cs (fun c hc => tickWith_keeps P c hP.before (hcs c hc P hP) hP.after) s hs

/-! ### The step as the run of a program -/

theorem step_ofFetch {s : State} (hp : s.cpu.prog = .none) (hn : s.cpu.next = .fetch) :
    step s = exec (fetchedInstr (beforeCpu s)) s := by
  simp only [step, hp, hn, beforeCpu]

theorem step_inProgram {s : State} (hp : s.cpu.prog ≠ .none) (h1 : 1 ≤ s.cpu.t)
    (h2 : s.cpu.t ≤ (progCycles s.cfg s.cpu.prog).length) :
    step s = .next (runCycles ((progCycles s.cfg s.cpu.prog).drop (s.cpu.t - 1)) s) := by
  unfold step
  split
  · contradiction
  · rw [if_pos ⟨h1, h2⟩]

/-- A step that answers a next state has run cycles of a program. -/
theorem exists_runCycles_of_step {s t : State} (h : step s = .next t) :
    ∃ cs : List Cycle, (∀ cyc ∈ cs, BusOnly cyc) ∧ t = runCycles cs s := by
  by_cases hp : s.cpu.prog = .none
  · cases hn : s.cpu.next with
    | fetch =>
      rw [step_ofFetch hp hn, OpcodeMap.exec_eq_next, Host.Outcome.next.injEq] at h
      exact ⟨_, busOnly_instrProgram _ _, h.symm⟩
    | int kind =>
      rw [Interrupts.step_ofInterrupt hp hn, Host.Outcome.next.injEq] at h
      exact ⟨_, busOnly_interruptSequence kind, h.symm⟩
  · unfold step at h
    split at h
    · contradiction
    · split at h
      · rw [Host.Outcome.next.injEq] at h
        exact ⟨_, fun c hc => busOnly_progCycles _ _ c (List.mem_of_mem_drop hc), h.symm⟩
      · nomatch h

/-- THE FRAME OF A STEP: what no part of a tick can break, a step keeps. -/
theorem KeptByBus.step {P : State → Prop} (hP : KeptByBus P) {s t : State} (h : step s = .next t) (hs : P s) : P t := by
  obtain ⟨cs, hcs, rfl⟩ := exists_runCycles_of_step h
  exact hP.runCycles hcs hs

/-- The frame of an instruction that stores in no form. -/
theorem KeptByReads.exec {P : State → Prop} (hP : KeptByReads P) {i : Instr} (hi : mayStore i = false) {s t : State}
    (h : exec i s = .next t) (hs : P s) : P t := by
  rw [OpcodeMap.exec_eq_next, Host.Outcome.next.injEq] at h
  rw [← h]
  refine hP.runCycles ?_ hs
  simp only [instrProgram, List.forall_mem_cons]
  exact ⟨readsOnly_fetchCycle i, Shaped.readsOnly (hi ▸ shaped_body s.cfg i)⟩

/-! ### What bus accesses keep -/

/-- What the two chips' reads keep, a bus read keeps. -/
theorem busRead_keeps {P : State → Prop} (hvia : ∀ id r s, P s → P (viaRead id r s).2) (a : Addr) (s : State)
    (hs : P s) : P (busRead a s).2 := by
  have hor (b : Bool) (f : State → Byte × State) (hf : ∀ s, P s → P (f s).2) (p : Byte × State) (hp : P p.2) :
      P (orRead b f p).2 := by
    unfold orRead
    split
    · exact hf _ hp
    · exact hp
  unfold busRead
  split
  case h_5 => exact hvia _ _ _ hs
  case h_7 =>
    exact hor _ _ (hvia .via2 _) _ (hor _ _ (hvia .via1 _) _ (hor _ _ (fun s hs => hs) _ hs))
  all_goals exact hs

/-- What the three chips' writes and a write of a memory cell keep, a bus write keeps. -/
theorem busWrite_keeps {P : State → Prop} (a : Addr) (x : Byte) (s : State) (hs : P s)
    (hmem : ∀ c y, s.storedCell a = some c → P { s with mem := rawWrite s.mem c y })
    (hvic : ∀ r s, P s → P (vicWrite r x s)) (hvia : ∀ id r s, P s → P (viaWrite id r x s)) : P (busWrite a x s) := by
  unfold busWrite
  unfold State.storedCell at hmem
  split
  case h_1 h => exact hmem _ _ (by rw [h])
  case h_2 => exact hs
  case h_3 h => exact hmem _ _ (by rw [h])
  case h_4 => exact hvic _ _ hs
  case h_5 => exact hvia _ _ _ hs
  case h_6 => exact hs
  case h_7 =>
    have hif (b : Bool) (f : State → State) (hf : ∀ s, P s → P (f s)) (s : State) (hs : P s) :
        P (if b then f s else s) := by
      split
      · exact hf s hs
      · exact hs
    exact hif _ _ (hvia .via2 _) _ (hif _ _ (hvia .via1 _) _ (hif _ _ (hvic _) _ hs))

end Sys2Proof.Proofs.Cycles

/-! The step as ticks (rules R36, R80, R191): in every program the first cycle begins it, each later one moves to the next
step index or ends it, and the last one ends it; so the step is the tick iterated to the first boundary. -/

namespace Sys2Proof.Proofs.StepTicks

open Sys2Proof Sys2Proof.Machine Sys2Proof.Proofs.ProgramTicks Sys2Proof.Proofs.Cycles

/-- Cycle 1 of the program `p`: `p` is in progress after it, its second cycle next. -/
def Begins (p : Prog) (cyc : Cycle) : Prop :=
  ∀ s : State, (cyc s).cpu.prog = p ∧ (cyc s).cpu.t = 2 ∧ (cyc s).cfg = s.cfg

/-- A cycle that leaves no program in progress. -/
def Ends (cyc : Cycle) : Prop := ∀ s : State, (cyc s).cpu.prog = .none

/-- A cycle that, in each state, moves to the next step index of its program or leaves no program in progress. -/
def AdvancesOrEnds (cyc : Cycle) : Prop :=
  ∀ s : State, (cyc s).cpu.prog = .none ∨
    (cyc s).cpu.prog = s.cpu.prog ∧ (cyc s).cpu.t = s.cpu.t + 1 ∧ (cyc s).cfg = s.cfg

/-- The cycles of a program after its first: all move on or end, and the last ends. -/
def Closed (cs : List Cycle) : Prop :=
  ∃ (init : List Cycle) (last : Cycle), cs = init ++ [last] ∧ (∀ cyc ∈ init, AdvancesOrEnds cyc) ∧ Ends last

theorem AdvancesProgram.advancesOrEnds {cyc : Cycle} (h : AdvancesProgram cyc) : AdvancesOrEnds cyc :=
  fun s => .inr (h s)

theorem Ends.advancesOrEnds {cyc : Cycle} (h : Ends cyc) : AdvancesOrEnds cyc := fun s => .inl (h s)

theorem ends_readCycle {fin : State → State} (hf : Ends fin) (addr : Cpu → Addr) (eff : Byte → Cpu → Cpu) :
    Ends (readCycle fin addr eff) := fun _ => hf _

theorem ends_writeCycle {fin : State → State} (hf : Ends fin) (addr : Cpu → Addr) (out : Cpu → Byte × Cpu) :
    Ends (writeCycle fin addr out) := fun _ => hf _

theorem ends_endInstr : Ends endInstr := fun _ => rfl

theorem ends_endSequence : Ends endSequence := fun _ => rfl

theorem advances_fetchByte {eff : Byte → Cpu → Cpu} (hprog : ∀ b c, (eff b c).prog = c.prog)
    (ht : ∀ b c, (eff b c).t = c.t) : AdvancesProgram (fetchByte advance eff) :=
  advancesProgram_readCycle (fun b c => hprog b c.incPc) (fun b c => ht b c.incPc)

theorem advances_writeCycle {addr : Cpu → Addr} {out : Cpu → Byte × Cpu} (hprog : ∀ c, (out c).2.prog = c.prog)
    (ht : ∀ c, (out c).2.t = c.t) : AdvancesProgram (writeCycle advance addr out) := by
  intro s
  simp [writeCycle, hprog, ht]

theorem Cpu.fixHigh_t (c : Cpu) : c.fixHigh.t = c.t := by unfold Cpu.fixHigh; split <;> rfl

theorem advances_carryCycle (m : MemMode) : AdvancesProgram (carryCycle m) :=
  advancesProgram_readCycle (fun _ c => Cpu.fixHigh_prog c) (fun _ c => Cpu.fixHigh_t c)

theorem advances_addressCycles (m : MemMode) : ∀ cyc ∈ addressCycles m, AdvancesProgram cyc := by
  have hfetch {eff : Byte → Cpu → Cpu} := advances_fetchByte (eff := eff)
  have hread {addr : Cpu → Addr} {eff : Byte → Cpu → Cpu} := advancesProgram_readCycle (addr := addr) (eff := eff)
  cases m <;> simp only [addressCycles, List.forall_mem_cons]
  case zp => exact ⟨hfetch (fun _ _ => rfl) (fun _ _ => rfl), by simp⟩
  case zpx | zpy =>
    exact ⟨hfetch (fun _ _ => rfl) (fun _ _ => rfl), hread (fun _ _ => rfl) (fun _ _ => rfl), by simp⟩
  case abs | absx | absy =>
    exact ⟨hfetch (fun _ _ => rfl) (fun _ _ => rfl), hfetch (fun _ _ => rfl) (fun _ _ => rfl), by simp⟩
  case izx =>
    exact ⟨hfetch (fun _ _ => rfl) (fun _ _ => rfl), hread (fun _ _ => rfl) (fun _ _ => rfl),
      hread (fun _ _ => rfl) (fun _ _ => rfl), hread (fun _ _ => rfl) (fun _ _ => rfl), by simp⟩
  case izy =>
    exact ⟨hfetch (fun _ _ => rfl) (fun _ _ => rfl), hread (fun _ _ => rfl) (fun _ _ => rfl),
      hread (fun _ _ => rfl) (fun _ _ => rfl), by simp⟩

theorem advances_carryCycles (m : MemMode) : ∀ cyc ∈ carryCycles m, AdvancesProgram cyc := by
  intro cyc h
  unfold carryCycles at h
  split at h
  · rw [List.mem_singleton.mp h]; exact advances_carryCycle m
  · exact absurd h List.not_mem_nil

theorem advances_toStore (m : MemMode) : ∀ cyc ∈ addressCycles m ++ carryCycles m, AdvancesProgram cyc :=
  List.forall_mem_append.mpr ⟨advances_addressCycles m, advances_carryCycles m⟩

theorem advances_readDataCycle (m : MemMode) : AdvancesProgram (readDataCycle m) :=
  advancesProgram_readCycle (fun _ _ => rfl) (fun _ _ => rfl)

theorem advances_writeOldCycle (m : MemMode) : AdvancesProgram (writeOldCycle m) :=
  advances_writeCycle (fun _ => rfl) (fun _ => rfl)

theorem advances_dummyStack : AdvancesProgram dummyStack :=
  advancesProgram_readCycle (fun _ _ => rfl) (fun _ _ => rfl)

theorem advances_pullCycle {eff : Byte → Cpu → Cpu} (hprog : ∀ b c, (eff b c).prog = c.prog)
    (ht : ∀ b c, (eff b c).t = c.t) : AdvancesProgram (pullCycle advance eff) :=
  advancesProgram_readCycle (fun b _ => hprog b _) (fun b _ => ht b _)

/-- The read at the un-carried address is the carry cycle or the last one. -/
theorem advancesOrEnds_uncarriedCycle (m : MemMode) (act : Byte → Cpu → Cpu) :
    AdvancesOrEnds (uncarriedCycle m act) := by
  intro s
  unfold uncarriedCycle
  split
  · exact AdvancesProgram.advancesOrEnds (advances_carryCycle m) s
  · exact .inl (ends_readCycle ends_endInstr _ _ s)

/-- The offset fetch of a branch goes on or, the branch not taken, ends it. -/
theorem advancesOrEnds_branchOffset (cond : Cpu → Bool) :
    AdvancesOrEnds (fun s => fetchByte (if cond s.cpu then advance else endInstr) (fun b c => { c with off := b }) s) := by
  intro s
  dsimp only
  split
  · exact .inr (advances_fetchByte (fun _ _ => rfl) (fun _ _ => rfl) s)
  · exact .inl (ends_readCycle ends_endInstr _ _ s)

/-- The target cycle of a branch goes on to the page fix or ends it. -/
theorem advancesOrEnds_branchTaken : AdvancesOrEnds branchTaken := by
  intro s
  unfold branchTaken
  split
  · exact .inl (ends_readCycle ends_endInstr _ _ s)
  · exact .inr (advancesProgram_readCycle (fun _ _ => rfl) (fun _ _ => rfl) s)

/-! ### Closed programs -/

/-- A program part whose cycles all advance but the last, which ends: it takes as many ticks as it has cycles. -/
def Straight (cs : List Cycle) : Prop :=
  ∃ (init : List Cycle) (last : Cycle), cs = init ++ [last] ∧ (∀ cyc ∈ init, AdvancesProgram cyc) ∧ Ends last

theorem Straight.closed {cs : List Cycle} (h : Straight cs) : Closed cs := by
  obtain ⟨init, last, rfl, hinit, hlast⟩ := h
  exact ⟨init, last, rfl, fun c hc => AdvancesProgram.advancesOrEnds (hinit c hc), hlast⟩

theorem ends_lastRead (addr : Cpu → Addr) (eff : Byte → Cpu → Cpu) : Ends (readCycle endInstr addr eff) :=
  ends_readCycle ends_endInstr addr eff

theorem ends_lastPull (eff : Byte → Cpu → Cpu) : Ends (pullCycle endInstr eff) := ends_readCycle ends_endInstr _ _

theorem ends_lastWrite (addr : Cpu → Addr) (out : Cpu → Byte × Cpu) : Ends (writeCycle endInstr addr out) :=
  ends_writeCycle ends_endInstr addr out

theorem ends_operandCycle (m : MemMode) (act : Byte → Cpu → Cpu) : Ends (operandCycle m act) := ends_lastRead _ _

theorem straight_readImmediate (act : Byte → Cpu → Cpu) : Straight (readBody .imm act) :=
  ⟨[], _, rfl, by simp, ends_readCycle ends_endInstr _ _⟩

theorem straight_impliedBody (act : Cpu → Cpu) : Straight (impliedBody act) := ⟨[], _, rfl, by simp, ends_lastRead _ _⟩

theorem straight_writeBodyAt (m : MemMode) (addr : Cpu → Addr) (out : Cpu → Byte × Cpu) :
    Straight (writeBodyAt m addr out) := ⟨_, _, rfl, advances_toStore m, ends_lastWrite _ _⟩

theorem straight_noWriteBody (m : MemMode) : Straight (noWriteBody m) :=
  ⟨_, _, rfl, advances_toStore m, ends_operandCycle m _⟩

theorem straight_rmwBody (m : MemMode) (f : Cpu → Byte → Byte × Cpu) : Straight (rmwBody m f) := by
  refine ⟨addressCycles m ++ carryCycles m ++ [readDataCycle m, writeOldCycle m], writeNewCycle m f, by simp [rmwBody], ?_,
    ends_lastWrite _ _⟩
  refine List.forall_mem_append.mpr ⟨advances_toStore m, ?_⟩
  simp only [List.forall_mem_cons]
  exact ⟨advances_readDataCycle m, advances_writeOldCycle m, by simp⟩

theorem straight_noRmwBody (m : MemMode) : Straight (noRmwBody m) := by
  refine ⟨addressCycles m ++ carryCycles m ++ [readDataCycle m, readDataCycle m], operandCycle m (fun _ c => c),
    by simp [noRmwBody], ?_, ends_operandCycle m _⟩
  refine List.forall_mem_append.mpr ⟨advances_toStore m, ?_⟩
  simp only [List.forall_mem_cons]
  exact ⟨advances_readDataCycle m, advances_readDataCycle m, by simp⟩

theorem straight_push (v : Cpu → Byte) : Straight [dummyAtPc, pushCycle endInstr v] :=
  ⟨[dummyAtPc], pushCycle endInstr v, rfl, by simpa using advancesProgram_dummyAtPc, ends_lastWrite _ _⟩

theorem straight_pull (eff : Byte → Cpu → Cpu) : Straight [dummyAtPc, dummyStack, pullCycle endInstr eff] := by
  refine ⟨[dummyAtPc, dummyStack], pullCycle endInstr eff, rfl, ?_, ends_lastPull eff⟩
  simp only [List.forall_mem_cons]
  exact ⟨advancesProgram_dummyAtPc, advances_dummyStack, by simp⟩

theorem straight_jmpBody (m : JmpMode) : Straight (jmpBody m) := by
  have hfetch {eff : Byte → Cpu → Cpu} := advances_fetchByte (eff := eff)
  cases m with
  | abs =>
    refine ⟨[fetchAdl], _, rfl, ?_, ends_lastRead _ _⟩
    simp only [List.forall_mem_cons]
    exact ⟨hfetch (fun _ _ => rfl) (fun _ _ => rfl), by simp⟩
  | ind =>
    refine ⟨[fetchAdl, fetchAdh, _], _, rfl, ?_, ends_lastRead _ _⟩
    simp only [List.forall_mem_cons]
    exact ⟨hfetch (fun _ _ => rfl) (fun _ _ => rfl), hfetch (fun _ _ => rfl) (fun _ _ => rfl),
      advancesProgram_readCycle (fun _ _ => rfl) (fun _ _ => rfl), by simp⟩

theorem straight_jsrBody : Straight jsrBody := by
  refine ⟨[fetchAdl, dummyStack, pushPcHigh, pushPcLow], _, rfl, ?_, ends_lastRead _ _⟩
  simp only [List.forall_mem_cons]
  exact ⟨advances_fetchByte (fun _ _ => rfl) (fun _ _ => rfl), advances_dummyStack, advancesProgram_pushCycle _,
    advancesProgram_pushCycle _, by simp⟩

/-- The four cycles of RTS and of RTI before their last, two dummy reads and two pulls. -/
theorem advances_pulls {eff₁ eff₂ : Byte → Cpu → Cpu} (h₁ : ∀ b c, (eff₁ b c).prog = c.prog ∧ (eff₁ b c).t = c.t)
    (h₂ : ∀ b c, (eff₂ b c).prog = c.prog ∧ (eff₂ b c).t = c.t) :
    ∀ cyc ∈ [dummyAtPc, dummyStack, pullCycle advance eff₁, pullCycle advance eff₂], AdvancesProgram cyc := by
  simp only [List.forall_mem_cons]
  exact ⟨advancesProgram_dummyAtPc, advances_dummyStack, advances_pullCycle (fun b c => (h₁ b c).1) (fun b c => (h₁ b c).2),
    advances_pullCycle (fun b c => (h₂ b c).1) (fun b c => (h₂ b c).2), by simp⟩

theorem straight_rtsBody : Straight rtsBody := by
  refine ⟨[dummyAtPc, dummyStack, pullCycle advance _, pullCycle advance _], _, rfl, ?_, ends_lastRead _ _⟩
  exact advances_pulls (fun _ _ => ⟨rfl, rfl⟩) (fun _ _ => ⟨rfl, rfl⟩)

theorem straight_rtiBody : Straight rtiBody := by
  refine ⟨[dummyAtPc, dummyStack, pullCycle advance _, pullCycle advance _], _, rfl, ?_, ends_lastPull _⟩
  exact advances_pulls (fun _ _ => ⟨rfl, rfl⟩) (fun _ _ => ⟨rfl, rfl⟩)

/-- The four cycles of the entry through a vector before its last. -/
theorem straight_enterThroughVector {fin : State → State} (hf : Ends fin) (b : Bool) (vector : Addr) :
    Straight (enterThroughVector fin b vector) := by
  refine ⟨[pushPcHigh, pushPcLow, _, _], _, rfl, ?_, ends_readCycle hf _ _⟩
  simp only [List.forall_mem_cons]
  exact ⟨advancesProgram_pushCycle _, advancesProgram_pushCycle _, advancesProgram_pushCycle _,
    advancesProgram_readCycle (fun _ _ => rfl) (fun _ _ => rfl), by simp⟩

theorem Straight.cons {cyc : Cycle} {cs : List Cycle} (hc : AdvancesProgram cyc) (h : Straight cs) :
    Straight (cyc :: cs) := by
  obtain ⟨init, last, rfl, hinit, hlast⟩ := h
  exact ⟨cyc :: init, last, rfl, List.forall_mem_cons.mpr ⟨hc, hinit⟩, hlast⟩

theorem straight_brkBody : Straight brkBody :=
  (straight_enterThroughVector ends_endInstr true (vectorOf .irq)).cons
    (advances_fetchByte (fun _ _ => rfl) (fun _ _ => rfl))

theorem straight_interruptSequence (kind : IntKind) : Straight (interruptSequence kind).tail :=
  (straight_enterThroughVector ends_endSequence false (vectorOf kind)).cons advancesProgram_dummyAtPc

theorem straight_trapBody : Straight trapBody := ⟨[], _, rfl, by simp, ends_readCycle (fun _ => rfl) _ _⟩

/-- The memory forms of the read class: the read at the un-carried address may be the last. -/
theorem closed_readBody (m : MemMode) (act : Byte → Cpu → Cpu) : Closed (readBody (.mem m) act) := by
  have haddr : ∀ cyc ∈ addressCycles m, AdvancesOrEnds cyc :=
    fun c hc => AdvancesProgram.advancesOrEnds (advances_addressCycles m c hc)
  simp only [readBody]
  split
  · refine ⟨addressCycles m ++ [uncarriedCycle m act], operandCycle m act, by simp, ?_, ends_operandCycle m act⟩
    exact List.forall_mem_append.mpr ⟨haddr, by simpa using advancesOrEnds_uncarriedCycle m act⟩
  · exact ⟨addressCycles m, operandCycle m act, rfl, haddr, ends_operandCycle m act⟩

theorem closed_branchBody (cond : Cpu → Bool) : Closed (branchBody cond) := by
  refine ⟨[_, branchTaken], _, rfl, ?_, ends_lastRead _ _⟩
  simp only [List.forall_mem_cons]
  exact ⟨advancesOrEnds_branchOffset cond, advancesOrEnds_branchTaken, by simp⟩

/-- Every body is closed. -/
theorem closed_of_shaped {b : Bool} {cs : List Cycle} (h : Shaped b cs) : Closed cs := by
  cases h with
  | read _ m act =>
    cases m with
    | imm => exact (straight_readImmediate act).closed
    | mem m => exact closed_readBody m act
  | write m addr out => exact (straight_writeBodyAt m addr out).closed
  | noWrite _ m => exact (straight_noWriteBody m).closed
  | modify m f => exact (straight_rmwBody m f).closed
  | noModify _ m => exact (straight_noRmwBody m).closed
  | implied _ act => exact (straight_impliedBody act).closed
  | branch _ cond => exact closed_branchBody cond
  | push v => exact (straight_push v).closed
  | pull _ eff => exact (straight_pull eff).closed
  | jump _ m => exact (straight_jmpBody m).closed
  | call => exact straight_jsrBody.closed
  | subroutineReturn => exact straight_rtsBody.closed
  | software => exact straight_brkBody.closed
  | interruptReturn => exact straight_rtiBody.closed
  | trap => exact straight_trapBody.closed

theorem closed_body (k : MachineCfg) (i : Instr) : Closed (body k i) := closed_of_shaped (shaped_body k i)

theorem closed_interruptSequence (kind : IntKind) : Closed (interruptSequence kind).tail :=
  (straight_interruptSequence kind).closed

theorem begins_fetchCycle (i : Instr) : Begins (progOf i) (fetchCycle i) := by
  intro s
  simp [fetchCycle, fetchByte, readCycle]

theorem begins_interruptStart (kind : IntKind) : Begins (.intSeq kind) (interruptStart kind) := by
  intro s
  simp [interruptStart, readCycle]

theorem progOf_decodeOpcode (op : Byte) : progOf (decodeOpcode op) = .instr op := by
  rw [progOf, if_neg (OpcodeMap.decodeOpcode_ne_trap op), OpcodeMap.opcode_decodeOpcode]

/-- THE SHAPE OF EVERY PROGRAM: a cycle that begins it, then a closed rest. -/
theorem progCycles_shape (k : MachineCfg) {p : Prog} (hp : p ≠ .none) :
    ∃ (first : Cycle) (rest : List Cycle), progCycles k p = first :: rest ∧ Begins p first ∧ Closed rest := by
  cases p with
  | none => contradiction
  | instr op => exact ⟨_, _, rfl, progOf_decodeOpcode op ▸ begins_fetchCycle _, closed_body k _⟩
  | intSeq kind => exact ⟨_, _, rfl, begins_interruptStart kind, closed_interruptSequence kind⟩
  | trap => exact ⟨_, _, rfl, begins_fetchCycle .trap, closed_body k .trap⟩

/-! ### Ticks -/

theorem Begins.tickWith {p : Prog} {cyc : Cycle} (h : Begins p cyc) (s : State) :
    (tickWith cyc s).cpu.prog = p ∧ (tickWith cyc s).cpu.t = 2 ∧ (tickWith cyc s).cfg = s.cfg := by
  simpa [tickWith_eq] using h (beforeCpu s)

theorem Ends.tickWith {cyc : Cycle} (h : Ends cyc) (s : State) : (tickWith cyc s).cpu.prog = .none := by
  simpa [tickWith_eq] using h (beforeCpu s)

theorem AdvancesOrEnds.tickWith {cyc : Cycle} (h : AdvancesOrEnds cyc) (s : State) :
    (tickWith cyc s).cpu.prog = .none ∨ (tickWith cyc s).cpu.prog = s.cpu.prog ∧
      (tickWith cyc s).cpu.t = s.cpu.t + 1 ∧ (tickWith cyc s).cfg = s.cfg := by
  simpa [tickWith_eq] using h (beforeCpu s)

/-- A tick that ends its program reaches the boundary. -/
theorem reachesBoundary_tick {s : State} (h : (tick s).cpu.prog = .none) : ReachesBoundary s (tick s) :=
  ⟨1, Nat.le_refl 1, rfl, h, fun m h1 h2 => absurd h2 (by omega)⟩

/-- One more tick inside a program before the boundary. -/
theorem reachesBoundary_cons {s t : State} (h : (tick s).cpu.prog ≠ .none) (ht : ReachesBoundary (tick s) t) :
    ReachesBoundary s t := by
  obtain ⟨n, hn, rfl, hend, hmin⟩ := ht
  refine ⟨n + 1, by omega, rfl, hend, fun m h1 h2 => ?_⟩
  obtain ⟨m, rfl⟩ := Nat.exists_eq_add_of_le' h1
  cases m with
  | zero => exact h
  | succ m => exact hmin (m + 1) (by omega) (by omega)

/-- The tick inside a program, when the cycle its step index names is known. -/
theorem tick_of_drop {s : State} {j : Nat} {cyc : Cycle} {cs : List Cycle} (hp : s.cpu.prog ≠ .none)
    (ht : s.cpu.t = j + 1) (hcs : (progCycles s.cfg s.cpu.prog).drop j = cyc :: cs) : tick s = tickWith cyc s := by
  have hget : (progCycles s.cfg s.cpu.prog)[j]? = some cyc := by rw [← List.head?_drop, hcs, List.head?_cons]
  rw [tick_inProgram hp, ht, cycleAt, List.getD_eq_getElem?_getD, hget, Option.getD_some]

/-- The rest of a program, from the cycle its step index names, runs to the first boundary. -/
theorem reachesBoundary_of_closed {init : List Cycle} {last : Cycle} (hinit : ∀ cyc ∈ init, AdvancesOrEnds cyc)
    (hlast : Ends last) {s : State} {j : Nat} (hp : s.cpu.prog ≠ .none) (ht : s.cpu.t = j + 1)
    (hcs : (progCycles s.cfg s.cpu.prog).drop j = init ++ [last]) :
    ReachesBoundary s (runCycles (init ++ [last]) s) := by
  induction init generalizing s j with
  | nil =>
    have htick := tick_of_drop hp ht hcs
    rw [List.nil_append, runCycles_singleton, ← htick]
    exact reachesBoundary_tick (htick ▸ hlast.tickWith s)
  | cons cyc init ih =>
    have htick := tick_of_drop hp ht hcs
    rcases (hinit cyc List.mem_cons_self).tickWith s with hend | ⟨hprog, hidx, hcfg⟩
    · rw [List.cons_append, runCycles, hend, ← htick]
      exact reachesBoundary_tick (htick ▸ hend)
    · have hp' : (tickWith cyc s).cpu.prog ≠ .none := hprog ▸ hp
      have hcs' : (progCycles (tickWith cyc s).cfg (tickWith cyc s).cpu.prog).drop (j + 1) = init ++ [last] := by
        rw [hprog, hcfg, ← List.tail_drop, hcs, List.cons_append, List.tail_cons]
      rw [List.cons_append, runCycles_cons hp']
      refine reachesBoundary_cons (htick ▸ hp') ?_
      rw [htick]
      exact ih (fun c hc => hinit c (List.mem_cons_of_mem cyc hc)) hp' (hidx.trans (congrArg (· + 1) ht)) hcs'

theorem reachesBoundary_of_drop {cs : List Cycle} (hc : Closed cs) {s : State} {j : Nat} (hp : s.cpu.prog ≠ .none)
    (ht : s.cpu.t = j + 1) (hcs : (progCycles s.cfg s.cpu.prog).drop j = cs) :
    ReachesBoundary s (runCycles cs s) := by
  obtain ⟨init, last, rfl, hinit, hlast⟩ := hc
  exact reachesBoundary_of_closed hinit hlast hp ht hcs

/-- A whole program from its first cycle, which the tick runs, to the first boundary. -/
theorem reachesBoundary_of_begins {p : Prog} {first : Cycle} {rest : List Cycle} {s : State} (hp : p ≠ .none)
    (hfirst : Begins p first) (hrest : Closed rest) (hcs : progCycles s.cfg p = first :: rest)
    (htick : tick s = tickWith first s) : ReachesBoundary s (runCycles (first :: rest) s) := by
  obtain ⟨hprog, hidx, hcfg⟩ := hfirst.tickWith s
  have hp' : (tickWith first s).cpu.prog ≠ .none := hprog ▸ hp
  rw [runCycles_cons hp']
  refine reachesBoundary_cons (htick ▸ hp') ?_
  rw [htick]
  refine reachesBoundary_of_drop hrest hp' hidx ?_
  rw [hprog, hcfg, hcs, List.drop_one, List.tail_cons]

/-- The instruction a fetch selects is TRAP or an entry of the opcode map, so its program is the one its name gives. -/
theorem progCycles_progOf_fetchedInstr (k : MachineCfg) (s : State) :
    progCycles k (progOf (fetchedInstr s)) = instrProgram k (fetchedInstr s) := by
  unfold fetchedInstr
  dsimp only
  split
  · rfl
  · rw [progOf_decodeOpcode]; rfl

/-- At a boundary that fetches the tick runs the opcode fetch. -/
theorem tick_ofFetch {s : State} (hp : s.cpu.prog = .none) (hn : s.cpu.next = .fetch) :
    tick s = tickWith (fetchCycle (fetchedInstr (beforeCpu s))) s := by
  have hc : cpuCycle (beforeCpu s) = fetchCycle (fetchedInstr (beforeCpu s)) (beforeCpu s) := by
    simp only [cpuCycle, beforeCpu_cpu, hp, hn]
  rw [tick, tickWith_eq, tickWith_eq, hc]

/-- The step from any state whose step index lies in its program. -/
theorem step_reachesBoundary {s : State} (hs : s.InProgram) : ∃ t : State, step s = .next t ∧ ReachesBoundary s t := by
  by_cases hp : s.cpu.prog = .none
  · cases hn : s.cpu.next with
    | fetch =>
      refine ⟨_, by rw [step_ofFetch hp hn, OpcodeMap.exec_eq_next], ?_⟩
      exact reachesBoundary_of_begins (progOf_ne_none _) (begins_fetchCycle _) (closed_body _ _)
        (progCycles_progOf_fetchedInstr _ _) (tick_ofFetch hp hn)
    | int kind =>
      refine ⟨_, Interrupts.step_ofInterrupt hp hn, ?_⟩
      exact reachesBoundary_of_begins (p := .intSeq kind) nofun (begins_interruptStart kind)
        (closed_interruptSequence kind) rfl (tick_ofInterrupt hp hn)
  · obtain ⟨h1, h2⟩ := hs.resolve_left hp
    refine ⟨_, step_inProgram hp h1 h2, ?_⟩
    obtain ⟨first, rest, hcs, hfirst, hrest⟩ := progCycles_shape s.cfg hp
    obtain ⟨j, ht⟩ := Nat.exists_eq_add_of_le' h1
    rw [ht, Nat.add_sub_cancel]
    cases j with
    | zero =>
      rw [List.drop_zero, hcs]
      exact reachesBoundary_of_begins hp hfirst hrest hcs (tick_of_drop hp ht hcs)
    | succ j =>
      obtain ⟨init, last, rfl, hinit, hlast⟩ := hrest
      rw [hcs] at h2
      have hj : j ≤ init.length := by
        simp only [List.length_cons, List.length_append, List.length_nil] at h2
        omega
      have hdrop : (progCycles s.cfg s.cpu.prog).drop (j + 1) = init.drop j ++ [last] := by
        rw [hcs, List.drop_succ_cons, List.drop_append_of_le_length hj]
      rw [hdrop]
      exact reachesBoundary_of_closed (fun c hc => hinit c (List.mem_of_mem_drop hc)) hlast hp ht hdrop

/-- Settles O5: of the invariant it needs the bound on the step index alone. -/
theorem stepIsTicksToTheBoundary : Obligations.StepIsTicksToTheBoundary :=
  fun _ hs => step_reachesBoundary hs.inProgram

end Sys2Proof.Proofs.StepTicks

/-! The video chip's cycle (rules R730 to R735): what it draws, how the counters move, and from these the frame period and
the pixels of a cycle. -/

namespace Sys2Proof.Proofs.VideoCycle

open Sys2Proof Sys2Proof.Machine

/-! ### What a cycle draws -/

/-- The horizontal position in the matrix. -/
def matrixX (k : MachineCfg) (v : Vic) : Int := (v.hcount : Int) - (v.geometry k).left

/-- Whether the cycle draws half a cell of the matrix (rule R730). -/
def inCell (k : MachineCfg) (v : Vic) : Bool :=
  v.inRows (v.geometry k) && decide (0 ≤ matrixX k v) && decide (matrixX k v < 8 * (v.geometry k).columns)

/-- Whether the cycle draws the first half of a cell. -/
def firstHalf (k : MachineCfg) (v : Vic) : Bool := decide (matrixX k v % 8 = 0)

/-- The chip after the bitmap fetch, where the cycle has one. -/
def fetched (k : MachineCfg) (mem : Memory) (v : Vic) : Vic :=
  if inCell k v && firstHalf k v then v.fetchBitmap (v.geometry k) mem else v

/-- The four pixels of the cycle. -/
def drawn (k : MachineCfg) (mem : Memory) (v : Vic) : List (BitVec 4) :=
  if inCell k v then (fetched k mem v).cellPixels (v.geometry k) (!firstHalf k v) else borderPixels (v.geometry k)

theorem length_cellPixels (g : Geometry) (b : Bool) (v : Vic) : (v.cellPixels g b).length = 4 := by
  unfold Vic.cellPixels
  dsimp only
  split <;> rfl

theorem length_drawn (k : MachineCfg) (mem : Memory) (v : Vic) : (drawn k mem v).length = 4 := by
  unfold drawn
  split
  · exact length_cellPixels _ _ _
  · rfl

/-- What drawing leaves as it was: the counters, the row bookkeeping, the presented frame and the signal. -/
structure SamePlace (v w : Vic) : Prop where
  hcount : w.hcount = v.hcount
  vcount : w.vcount = v.vcount
  cursor : w.cursor = v.cursor
  shown : w.shown = v.shown
  frameComplete : w.frameComplete = v.frameComplete

theorem fetched_same (k : MachineCfg) (mem : Memory) (v : Vic) :
    SamePlace v (fetched k mem v) ∧ (fetched k mem v).work = v.work := by
  unfold fetched
  split <;> exact ⟨⟨rfl, rfl, rfl, rfl, rfl⟩, rfl⟩

/-- The first half of a cycle moves no counter. -/
theorem drawGroup_same (k : MachineCfg) (mem : Memory) (v : Vic) : SamePlace v (v.drawGroup k mem) := by
  have hf := (fetched_same k mem v).1
  change SamePlace v (if _ then Vic.fetchCode (v.geometry k) mem _ (if k.vblankLines ≤ (fetched k mem v).vcount then
      { fetched k mem v with work := _ } else fetched k mem v) else if k.vblankLines ≤ (fetched k mem v).vcount then
      { fetched k mem v with work := _ } else fetched k mem v)
  split <;> split <;> exact ⟨hf.1, hf.2, hf.3, hf.4, hf.5⟩

/-- The frame in the making after the first half of a cycle: four pixels at the cursor, none in a blanked line. -/
theorem drawGroup_work (k : MachineCfg) (mem : Memory) (v : Vic) :
    (v.drawGroup k mem).work =
      if k.vblankLines ≤ v.vcount then Sparse.writeRun v.work v.cursor (drawn k mem v) else v.work := by
  obtain ⟨hf, hwork⟩ := fetched_same k mem v
  change (if _ then Vic.fetchCode (v.geometry k) mem _ (if k.vblankLines ≤ (fetched k mem v).vcount then
      { fetched k mem v with work := Sparse.writeRun (fetched k mem v).work (fetched k mem v).cursor (drawn k mem v) }
      else fetched k mem v) else if k.vblankLines ≤ (fetched k mem v).vcount then
      { fetched k mem v with work := Sparse.writeRun (fetched k mem v).work (fetched k mem v).cursor (drawn k mem v) }
      else fetched k mem v).work = _
  rw [hf.vcount, hf.cursor, hwork]
  split <;> split
  · rfl
  · exact hwork
  · rfl
  · exact hwork

/-! ### How the counters move -/

theorem endLine_eq (g : Geometry) (v : Vic) : ∃ d r : Nat, v.endLine g = { v with depth := d, rowBase := r } := by
  unfold Vic.endLine
  split
  · split
    · exact ⟨_, _, rfl⟩
    · exact ⟨_, v.rowBase, rfl⟩
  · exact ⟨v.depth, v.rowBase, rfl⟩

/-- The second half of a cycle inside a line. -/
theorem advance_inLine {k : MachineCfg} {v : Vic} (h : v.hcount + 4 ≠ k.variant.totalWidth) :
    v.advance k = { v with cursor := v.cursor + 4, hcount := v.hcount + 4 } := by
  unfold Vic.advance
  exact if_neg h

/-- The second half of a cycle at the end of a line that is not the last. -/
theorem advance_endLine {k : MachineCfg} {v : Vic} (h : v.hcount + 4 = k.variant.totalWidth)
    (hv : v.vcount + 1 ≠ k.variant.totalHeight) :
    ∃ d r : Nat, v.advance k =
      { v with cursor := v.cursor + 4, hcount := 0, vcount := v.vcount + 1, depth := d, rowBase := r } := by
  obtain ⟨d, r, he⟩ := endLine_eq ({ v with cursor := v.cursor + 4, hcount := 0 }.geometry k)
    { v with cursor := v.cursor + 4, hcount := 0 }
  refine ⟨d, r, ?_⟩
  unfold Vic.advance
  dsimp only
  rw [if_pos h, he, if_neg hv]

/-- The second half of the last cycle of a frame (rules R735, R736). -/
theorem advance_endFrame {k : MachineCfg} {v : Vic} (h : v.hcount + 4 = k.variant.totalWidth)
    (hv : v.vcount + 1 = k.variant.totalHeight) :
    v.advance k =
      { v with cursor := 0, hcount := 0, vcount := 0, depth := 0, rowBase := 0, shown := v.work, frameComplete := true } := by
  obtain ⟨d, r, he⟩ := endLine_eq ({ v with cursor := v.cursor + 4, hcount := 0 }.geometry k)
    { v with cursor := v.cursor + 4, hcount := 0 }
  unfold Vic.advance
  dsimp only
  rw [if_pos h, he, if_pos hv]
  rfl

/-- No cycle writes the frame in the making but through its pixels. -/
theorem advance_work (k : MachineCfg) (v : Vic) : (v.advance k).work = v.work := by
  by_cases h : v.hcount + 4 = k.variant.totalWidth
  · by_cases hv : v.vcount + 1 = k.variant.totalHeight
    · rw [advance_endFrame h hv]
    · obtain ⟨d, r, he⟩ := advance_endLine h hv
      rw [he]
  · rw [advance_inLine h]

theorem cycle_work (k : MachineCfg) (mem : Memory) (v : Vic) :
    (v.cycle k mem).work =
      if k.vblankLines ≤ v.vcount then Sparse.writeRun v.work v.cursor (drawn k mem v) else v.work := by
  rw [Vic.cycle, advance_work, drawGroup_work]

/-! ### The invariant -/

/-- The four pixels at the cursor lie in the frame. -/
theorem cursor_bound {k : MachineCfg} {v : Vic} (h : v.Inv k) :
    v.cursor + 4 ≤ k.variant.totalWidth * k.variant.totalHeight := by
  obtain ⟨hmod, hh, hv, hc, -, -⟩ := h
  rw [hc]
  cases hk : k.variant <;> rw [hk] at hh hv <;>
    simp only [Variant.totalWidth, Variant.totalHeight, Variant.cyclesPerLine] at hh hv ⊢ <;> omega

theorem inv_drawGroup {k : MachineCfg} (mem : Memory) {v : Vic} (h : v.Inv k) : (v.drawGroup k mem).Inv k := by
  have hs := drawGroup_same k mem v
  have hbound := cursor_bound h
  obtain ⟨hmod, hh, hv, hc, hwork, hshown⟩ := h
  refine ⟨by rw [hs.hcount]; exact hmod, by rw [hs.hcount]; exact hh, by rw [hs.vcount]; exact hv,
    by rw [hs.cursor, hs.vcount, hs.hcount]; exact hc, ?_, by rw [hs.shown]; exact hshown⟩
  rw [drawGroup_work]
  split
  · exact Sparse.writeRun_wf hwork (by rw [length_drawn]; exact hbound)
  · exact hwork

theorem inv_advance {k : MachineCfg} {v : Vic} (h : v.Inv k) : (v.advance k).Inv k := by
  obtain ⟨hmod, hh, hv, hc, hwork, hshown⟩ := h
  have hwidth : k.variant.totalWidth % 4 = 0 := Nat.mul_mod_right 4 _
  have hheight : 0 < k.variant.totalHeight := by omega
  by_cases he : v.hcount + 4 = k.variant.totalWidth
  · by_cases hf : v.vcount + 1 = k.variant.totalHeight
    · rw [advance_endFrame he hf]
      exact ⟨rfl, by dsimp only; omega, hheight, by simp, hwork, hwork⟩
    · obtain ⟨d, r, hadv⟩ := advance_endLine he hf
      rw [hadv]
      refine ⟨rfl, by dsimp only; omega, by dsimp only; omega, ?_, hwork, hshown⟩
      dsimp only
      rw [hc, Nat.add_mul]
      omega
  · rw [advance_inLine he]
    exact ⟨by dsimp only; omega, by dsimp only; omega, hv, by dsimp only; omega, hwork, hshown⟩

/-- A chip cycle keeps the video chip's invariant. -/
theorem inv_cycle {k : MachineCfg} (mem : Memory) {v : Vic} (h : v.Inv k) : (v.cycle k mem).Inv k :=
  inv_advance (inv_drawGroup mem h)

/-! ### The frame period (rule R735) -/

/-- The chip `n` cycles into a frame, the signal not raised. -/
def InFrame (k : MachineCfg) (n : Nat) (v : Vic) : Prop :=
  v.frameComplete = false ∧ v.hcount = 4 * n % k.variant.totalWidth ∧ v.vcount = 4 * n / k.variant.totalWidth

/-- The chip at the end of a frame, the signal raised. -/
def FrameDone (v : Vic) : Prop := v.frameComplete = true ∧ v.hcount = 0 ∧ v.vcount = 0 ∧ v.shown = v.work

/-- How many cycles a frame takes. -/
def period (k : MachineCfg) : Nat := k.variant.totalWidth * k.variant.totalHeight / 4

theorem period_eq (k : MachineCfg) : 4 * period k = k.variant.totalWidth * k.variant.totalHeight := by
  unfold period
  cases k.variant <;> rfl

/-- One cycle further: still inside the frame, or its end. -/
theorem InFrame.cycle {k : MachineCfg} {n : Nat} {v : Vic} (h : InFrame k n v) (mem : Memory) :
    (n + 1 < period k → InFrame k (n + 1) (v.cycle k mem)) ∧ (n + 1 = period k → FrameDone (v.cycle k mem)) := by
  have hs := drawGroup_same k mem v
  obtain ⟨hfc, hh, hv⟩ := h
  have hp := period_eq k
  have hh' : (v.drawGroup k mem).hcount = 4 * n % k.variant.totalWidth := hs.hcount.trans hh
  have hv' : (v.drawGroup k mem).vcount = 4 * n / k.variant.totalWidth := hs.vcount.trans hv
  have hfc' : (v.drawGroup k mem).frameComplete = false := hs.frameComplete.trans hfc
  have hwidth : k.variant.totalWidth = 284 ∧ k.variant.totalHeight = 312 ∨
      k.variant.totalWidth = 260 ∧ k.variant.totalHeight = 261 := by
    cases k.variant
    · exact .inl ⟨rfl, rfl⟩
    · exact .inr ⟨rfl, rfl⟩
  unfold Vic.cycle
  by_cases he : (v.drawGroup k mem).hcount + 4 = k.variant.totalWidth
  · by_cases hf : (v.drawGroup k mem).vcount + 1 = k.variant.totalHeight
    · rw [advance_endFrame he hf]
      refine ⟨fun hn => ?_, fun _ => ⟨rfl, rfl, rfl, rfl⟩⟩
      rw [hh'] at he
      rw [hv'] at hf
      rcases hwidth with ⟨hw, hH⟩ | ⟨hw, hH⟩ <;> simp only [hw, hH] at he hf hp <;> omega
    · obtain ⟨d, r, hadv⟩ := advance_endLine he hf
      rw [hadv]
      rw [hh'] at he
      rw [hv'] at hf
      unfold InFrame FrameDone
      dsimp only
      rw [hfc', hv']
      rcases hwidth with ⟨hw, hH⟩ | ⟨hw, hH⟩ <;> simp only [hw, hH] at he hf hp ⊢ <;>
        exact ⟨fun hn => ⟨trivial, by omega, by omega⟩, fun hn => by omega⟩
  · rw [advance_inLine he]
    rw [hh'] at he
    unfold InFrame FrameDone
    dsimp only
    rw [hfc', hh', hv']
    rcases hwidth with ⟨hw, hH⟩ | ⟨hw, hH⟩ <;> simp only [hw, hH] at he hp ⊢ <;>
      exact ⟨fun hn => ⟨trivial, by omega, by omega⟩, fun hn => by omega⟩

/-- The chip after a run of cycles that started `n` cycles into a frame. -/
theorem inFrame_foldl {k : MachineCfg} (mems : List Memory) {n : Nat} {v : Vic} (h : InFrame k n v) :
    (n + mems.length < period k → InFrame k (n + mems.length) (mems.foldl (fun v m => Vic.cycle k m v) v)) ∧
      (0 < mems.length → n + mems.length = period k → FrameDone (mems.foldl (fun v m => Vic.cycle k m v) v)) := by
  induction mems generalizing n v with
  | nil => exact ⟨fun _ => h, fun h0 => absurd h0 (Nat.lt_irrefl 0)⟩
  | cons m mems ih =>
    obtain ⟨hin, hdone⟩ := h.cycle m
    rw [List.foldl_cons, List.length_cons, ← Nat.add_assoc, Nat.add_right_comm]
    refine ⟨fun hn => (ih (hin (by omega))).1 hn, fun _ hn => ?_⟩
    cases mems with
    | nil => exact hdone hn
    | cons m' mems => exact (ih (hin (by simp only [List.length_cons] at hn; omega))).2 (Nat.succ_pos _) hn

/-- Settles O56, by induction on the cycles of a frame, with the counters as functions of the number of cycles. -/
theorem framePeriod : Obligations.FramePeriod := by
  intro k v mems hh hv hf
  have h0 : InFrame k 0 v := ⟨hf, by simp [hh], by simp [hv]⟩
  have hpos : 0 < period k := by unfold period; cases k.variant <;> decide
  obtain ⟨hin, hdone⟩ := inFrame_foldl mems h0
  rw [Nat.zero_add] at hin hdone
  refine ⟨hin, fun hlen => hdone ?_ hlen, fun s => ?_⟩
  · exact hlen ▸ hpos
  · simp [getFramebuffer]

/-! ### The pixels of a cycle (rules R732, R733) -/

/-- The bitmap byte the cycle draws from: fetched now in the first half of a cell, latched in the second. -/
def bitmapByte (k : MachineCfg) (mem : Memory) (v : Vic) : Byte :=
  if matrixX k v % 8 = 0 then
    Sparse.read mem (vicToCpu (((v.geometry k).cmBase + v.code.toNat * (v.geometry k).h + v.depth) % 16384))
  else v.bitmap

/-- The bit of that byte that pixel `j` of the cycle shows. -/
def pixelBit (k : MachineCfg) (mem : Memory) (v : Vic) (j : Nat) : Bool :=
  (bitmapByte k mem v).getLsbD ((if matrixX k v % 8 = 0 then 7 else 3) - j)

/-- The foreground colour of a cell. -/
def foreground (v : Vic) : BitVec 4 := BitVec.ofNat 4 (v.colour.toNat % 8)

theorem foreground_eq (c : BitVec 4) : (c.extractLsb' 0 3).setWidth 4 = BitVec.ofNat 4 (c.toNat % 8) := by
  revert c; decide

theorem border_eq (b : Byte) : (b.extractLsb' 0 3).setWidth 4 = BitVec.ofNat 4 (b.toNat % 8) := by
  revert b; decide

theorem fetched_latches (k : MachineCfg) (mem : Memory) (v : Vic) (h : inCell k v = true) :
    (fetched k mem v).bitmap = bitmapByte k mem v ∧ (fetched k mem v).colour = v.colour := by
  unfold fetched bitmapByte firstHalf
  rw [h, Bool.true_and]
  by_cases hx : matrixX k v % 8 = 0
  · rw [if_pos (decide_eq_true hx), if_pos hx]; exact ⟨rfl, rfl⟩
  · rw [if_neg (by simpa using hx), if_neg hx]; exact ⟨rfl, rfl⟩

/-- The four bits of half a cell, leftmost first. -/
theorem halfBits (k : MachineCfg) (mem : Memory) (v : Vic) {j : Nat} (hj : j < 4) :
    (if !firstHalf k v then (bitmapByte k mem v).extractLsb' 0 4 else (bitmapByte k mem v).extractLsb' 4 4).getLsbD (3 - j) =
      pixelBit k mem v j := by
  have h3 : 3 - j < 4 := by omega
  unfold pixelBit firstHalf
  by_cases hx : matrixX k v % 8 = 0
  · have he : 4 + (3 - j) = 7 - j := by omega
    simp [hx, h3, he]
  · simp [hx, h3]

/-- The pixels of half a hires cell. -/
theorem drawn_hires {k : MachineCfg} {mem : Memory} {v : Vic} (h : inCell k v = true) (hc : v.colour.getLsbD 3 = false)
    {j : Nat} (hj : j < 4) :
    (drawn k mem v).getD j 0 =
      if pixelBit k mem v j != (v.geometry k).reverse then foreground v else (v.geometry k).bg := by
  obtain ⟨hb, hcol⟩ := fetched_latches k mem v h
  have hbit := fun {j : Nat} => halfBits k mem v (j := j)
  rw [drawn, if_pos h, Vic.cellPixels, hb, hcol, hc]
  dsimp only
  rw [if_neg Bool.false_ne_true, foreground_eq]
  obtain rfl | rfl | rfl | rfl : j = 0 ∨ j = 1 ∨ j = 2 ∨ j = 3 := by omega
  all_goals
    rw [← hbit hj]
    rfl

/-- The pixels of half a multicolour cell. -/
theorem drawn_multicolour {k : MachineCfg} {mem : Memory} {v : Vic} (h : inCell k v = true)
    (hc : v.colour.getLsbD 3 = true) {j : Nat} (hj : j < 4) :
    (drawn k mem v).getD j 0 =
      multicolourPixel (v.geometry k) (foreground v) (pixelBit k mem v (j / 2 * 2)) (pixelBit k mem v (j / 2 * 2 + 1)) := by
  obtain ⟨hb, hcol⟩ := fetched_latches k mem v h
  have hbit := fun {j : Nat} => halfBits k mem v (j := j)
  rw [drawn, if_pos h, Vic.cellPixels, hb, hcol, hc]
  dsimp only
  rw [if_pos rfl, foreground_eq, ← hbit (j := j / 2 * 2) (by omega), ← hbit (j := j / 2 * 2 + 1) (by omega)]
  obtain rfl | rfl | rfl | rfl : j = 0 ∨ j = 1 ∨ j = 2 ∨ j = 3 := by omega
  all_goals rfl

/-- Outside the matrix every pixel is the border colour. -/
theorem drawn_border {k : MachineCfg} {mem : Memory} {v : Vic} (h : inCell k v = false) {j : Nat} (hj : j < 4) :
    (drawn k mem v).getD j 0 = BitVec.ofNat 4 ((v.reg 15).toNat % 8) := by
  rw [drawn, if_neg (by rw [h]; exact Bool.false_ne_true), borderPixels, ← border_eq]
  obtain rfl | rfl | rfl | rfl : j = 0 ∨ j = 1 ∨ j = 2 ∨ j = 3 := by omega
  all_goals rfl

theorem inCell_iff (k : MachineCfg) (v : Vic) :
    inCell k v = true ↔ (v.geometry k).top ≤ v.vcount ∧ (v.vcount : Int) < (v.geometry k).bottom ∧
      0 ≤ (v.hcount : Int) - (v.geometry k).left ∧
      (v.hcount : Int) - (v.geometry k).left < 8 * (v.geometry k).columns := by
  unfold inCell Vic.inRows matrixX
  rw [Bool.and_eq_true, Bool.and_eq_true, Bool.and_eq_true, decide_eq_true_eq, decide_eq_true_eq, decide_eq_true_eq,
    decide_eq_true_eq, and_assoc, and_assoc]

/-- What an unblanked cycle leaves of the frame in the making, pixel by pixel. -/
theorem read_cycle_work {k : MachineCfg} {v : Vic} (hinv : v.Inv k) (mem : Memory) (hv : k.vblankLines ≤ v.vcount) (i : Nat) :
    Sparse.read (v.cycle k mem).work i =
      if v.cursor ≤ i ∧ i < v.cursor + 4 then (drawn k mem v).getD (i - v.cursor) 0 else Sparse.read v.work i := by
  have hbound := cursor_bound hinv
  obtain ⟨-, -, -, -, hwork, -⟩ := hinv
  rw [cycle_work, if_pos hv, Sparse.read_writeRun hwork (by rw [length_drawn]; exact hbound), length_drawn]

theorem read_cycle_pixel {k : MachineCfg} {v : Vic} (hinv : v.Inv k) (mem : Memory) (hv : k.vblankLines ≤ v.vcount) {j : Nat}
    (hj : j < 4) : Sparse.read (v.cycle k mem).work (v.cursor + j) = (drawn k mem v).getD j 0 := by
  rw [read_cycle_work hinv mem hv, if_pos (by omega), Nat.add_sub_cancel_left]

/-- Settles O58, from the run of four pixels a cycle writes. -/
theorem chipCyclePixels : Obligations.ChipCyclePixels := by
  intro k mem v hinv g x cell bitmap bit fg pixel
  have hcell : inCell k v = true ↔ cell := inCell_iff k v
  refine ⟨fun hv => ?_, fun hv => ⟨fun i hi => ?_, fun hc j hj => ?_, fun hc hcol j hj => ?_, fun hc hcol j hj => ?_⟩⟩
  · rw [cycle_work, if_neg (by omega)]
  · rw [read_cycle_work hinv mem hv, if_neg (by omega)]
  · exact (read_cycle_pixel hinv mem hv hj).trans (drawn_border (by simpa using mt hcell.mp hc) hj)
  · exact (read_cycle_pixel hinv mem hv hj).trans (drawn_hires (hcell.mpr hc) hcol hj)
  · refine (read_cycle_pixel hinv mem hv hj).trans ((drawn_multicolour (hcell.mpr hc) hcol hj).trans ?_)
    unfold multicolourPixel
    have hborder : (v.geometry k).border.setWidth 4 = BitVec.ofNat 4 ((v.reg 15).toNat % 8) := border_eq (v.reg 15)
    rw [hborder]
    rfl

end Sys2Proof.Proofs.VideoCycle

/-! The timer/IO chip (rules R601 to R652): flags bit by bit, what each part of a chip cycle leaves alone, the timers'
countdown, and the control lines. -/

namespace Sys2Proof.Proofs.TimerChip

open Sys2Proof Sys2Proof.Machine

/-! ### Flags -/

theorem getLsbD_one_shiftLeft (n : Nat) {j : Nat} (hj : j < 7) : (1#7 <<< n).getLsbD j = decide (n = j) := by
  rw [BitVec.getLsbD_shiftLeft, BitVec.getLsbD_one]
  by_cases h : n = j
  · simp [h, hj]
  · by_cases hlt : j < n
    · simp [hlt, h]
    · have : j - n ≠ 0 := by omega
      simp [this, h]

theorem flag_setFlag (v : Via) (n : Nat) {j : Nat} (hj : j < 7) :
    (v.setFlag n).ifr.getLsbD j = (v.ifr.getLsbD j || decide (n = j)) := by
  rw [Via.setFlag, BitVec.getLsbD_or, getLsbD_one_shiftLeft n hj]

theorem flag_clearFlag (v : Via) (n : Nat) {j : Nat} (hj : j < 7) :
    (v.clearFlag n).ifr.getLsbD j = (v.ifr.getLsbD j && !decide (n = j)) := by
  rw [Via.clearFlag, BitVec.getLsbD_and, BitVec.getLsbD_not, getLsbD_one_shiftLeft n hj, decide_eq_true hj,
    Bool.true_and]

/-! ### What the parts of a chip cycle leave alone -/

/-- Timer 1 stands as it did: its fields, its mode and its flag. -/
structure SameTimer1 (v w : Via) : Prop where
  t1c : w.t1c = v.t1c
  t1l : w.t1l = v.t1l
  t1Armed : w.t1Armed = v.t1Armed
  t1Hold : w.t1Hold = v.t1Hold
  t1Reload : w.t1Reload = v.t1Reload
  acr : w.acr = v.acr
  flag : w.ifr.getLsbD ifrT1 = v.ifr.getLsbD ifrT1

/-- Timer 2 stands as it did. -/
structure SameTimer2 (v w : Via) : Prop where
  t2c : w.t2c = v.t2c
  t2Armed : w.t2Armed = v.t2Armed
  t2Hold : w.t2Hold = v.t2Hold
  flag : w.ifr.getLsbD ifrT2 = v.ifr.getLsbD ifrT2

/-- The ports and control lines stand as they did, with their flags. -/
structure SameLines (v w : Via) : Prop where
  ports : w.ora = v.ora ∧ w.orb = v.orb ∧ w.ddra = v.ddra ∧ w.ddrb = v.ddrb
  pcr : w.pcr = v.pcr
  latches : w.ira = v.ira ∧ w.irb = v.irb
  levels : w.lastCa1 = v.lastCa1 ∧ w.lastCb1 = v.lastCb1 ∧ w.lastCa2 = v.lastCa2 ∧ w.lastCb2 = v.lastCb2
  flags : ∀ j, j < 5 → w.ifr.getLsbD j = v.ifr.getLsbD j

theorem SameTimer1.trans {u v w : Via} (h : SameTimer1 u v) (g : SameTimer1 v w) : SameTimer1 u w :=
  ⟨g.1.trans h.1, g.2.trans h.2, g.3.trans h.3, g.4.trans h.4, g.5.trans h.5, g.6.trans h.6, g.7.trans h.7⟩

theorem SameTimer2.trans {u v w : Via} (h : SameTimer2 u v) (g : SameTimer2 v w) : SameTimer2 u w :=
  ⟨g.1.trans h.1, g.2.trans h.2, g.3.trans h.3, g.4.trans h.4⟩

theorem SameLines.trans {u v w : Via} (h : SameLines u v) (g : SameLines v w) : SameLines u w where
  ports := ⟨g.ports.1.trans h.ports.1, g.ports.2.1.trans h.ports.2.1, g.ports.2.2.1.trans h.ports.2.2.1,
    g.ports.2.2.2.trans h.ports.2.2.2⟩
  pcr := g.pcr.trans h.pcr
  latches := ⟨g.latches.1.trans h.latches.1, g.latches.2.trans h.latches.2⟩
  levels := ⟨g.levels.1.trans h.levels.1, g.levels.2.1.trans h.levels.2.1, g.levels.2.2.1.trans h.levels.2.2.1,
    g.levels.2.2.2.trans h.levels.2.2.2⟩
  flags := fun j hj => (g.flags j hj).trans (h.flags j hj)

/-- The two timers' parts of a cycle touch neither each other nor the lines. -/
theorem timer1Cycle_same (v : Via) : SameTimer2 v v.timer1Cycle ∧ SameLines v v.timer1Cycle := by
  have hlow (j : Nat) (hj : j < 6) : (v.setFlag ifrT1).ifr.getLsbD j = v.ifr.getLsbD j := by
    rw [flag_setFlag v _ (by omega), decide_eq_false (by unfold ifrT1; omega), Bool.or_false]
  unfold Via.timer1Cycle
  split
  · exact ⟨⟨rfl, rfl, rfl, rfl⟩, ⟨⟨rfl, rfl, rfl, rfl⟩, rfl, ⟨rfl, rfl⟩, ⟨rfl, rfl, rfl, rfl⟩, fun _ _ => rfl⟩⟩
  split
  · exact ⟨⟨rfl, rfl, rfl, rfl⟩, ⟨⟨rfl, rfl, rfl, rfl⟩, rfl, ⟨rfl, rfl⟩, ⟨rfl, rfl, rfl, rfl⟩, fun _ _ => rfl⟩⟩
  split
  · split
    · exact ⟨⟨rfl, rfl, rfl, hlow 5 (by omega)⟩,
        ⟨⟨rfl, rfl, rfl, rfl⟩, rfl, ⟨rfl, rfl⟩, ⟨rfl, rfl, rfl, rfl⟩, fun j hj => hlow j (by omega)⟩⟩
    split
    · exact ⟨⟨rfl, rfl, rfl, hlow 5 (by omega)⟩,
        ⟨⟨rfl, rfl, rfl, rfl⟩, rfl, ⟨rfl, rfl⟩, ⟨rfl, rfl, rfl, rfl⟩, fun j hj => hlow j (by omega)⟩⟩
    · exact ⟨⟨rfl, rfl, rfl, rfl⟩, ⟨⟨rfl, rfl, rfl, rfl⟩, rfl, ⟨rfl, rfl⟩, ⟨rfl, rfl, rfl, rfl⟩, fun _ _ => rfl⟩⟩
  · exact ⟨⟨rfl, rfl, rfl, rfl⟩, ⟨⟨rfl, rfl, rfl, rfl⟩, rfl, ⟨rfl, rfl⟩, ⟨rfl, rfl, rfl, rfl⟩, fun _ _ => rfl⟩⟩

theorem timer2Cycle_same (v : Via) : SameTimer1 v v.timer2Cycle ∧ SameLines v v.timer2Cycle := by
  have hother (j : Nat) (hj : j < 7) (hne : j ≠ 5) : (v.setFlag ifrT2).ifr.getLsbD j = v.ifr.getLsbD j := by
    rw [flag_setFlag v _ hj, decide_eq_false (show ifrT2 ≠ j from Ne.symm hne), Bool.or_false]
  unfold Via.timer2Cycle
  split
  · exact ⟨⟨rfl, rfl, rfl, rfl, rfl, rfl, rfl⟩,
      ⟨⟨rfl, rfl, rfl, rfl⟩, rfl, ⟨rfl, rfl⟩, ⟨rfl, rfl, rfl, rfl⟩, fun _ _ => rfl⟩⟩
  split
  · split
    · exact ⟨⟨rfl, rfl, rfl, rfl, rfl, rfl, hother 6 (by omega) (by omega)⟩,
        ⟨⟨rfl, rfl, rfl, rfl⟩, rfl, ⟨rfl, rfl⟩, ⟨rfl, rfl, rfl, rfl⟩, fun j hj => hother j (by omega) (by omega)⟩⟩
    · exact ⟨⟨rfl, rfl, rfl, rfl, rfl, rfl, rfl⟩,
        ⟨⟨rfl, rfl, rfl, rfl⟩, rfl, ⟨rfl, rfl⟩, ⟨rfl, rfl, rfl, rfl⟩, fun _ _ => rfl⟩⟩
  · exact ⟨⟨rfl, rfl, rfl, rfl, rfl, rfl, rfl⟩,
      ⟨⟨rfl, rfl, rfl, rfl⟩, rfl, ⟨rfl, rfl⟩, ⟨rfl, rfl, rfl, rfl⟩, fun _ _ => rfl⟩⟩

/-- Sampling a control line touches no timer. -/
theorem sample_same (inp : ChipInputs) (v : Via) :
    (SameTimer1 v (v.sampleCa1 inp) ∧ SameTimer2 v (v.sampleCa1 inp)) ∧
    (SameTimer1 v (v.sampleCb1 inp) ∧ SameTimer2 v (v.sampleCb1 inp)) ∧
    (SameTimer1 v (v.sampleCa2 inp) ∧ SameTimer2 v (v.sampleCa2 inp)) ∧
    (SameTimer1 v (v.sampleCb2 inp) ∧ SameTimer2 v (v.sampleCb2 inp)) := by
  have hflag (n j : Nat) (hj : j < 7) (hne : n ≠ j) : (v.setFlag n).ifr.getLsbD j = v.ifr.getLsbD j := by
    rw [flag_setFlag v n hj, decide_eq_false hne, Bool.or_false]
  have hT1 (n : Nat) (hn : n < 5) := hflag n ifrT1 (by decide) (by unfold ifrT1; omega)
  have hT2 (n : Nat) (hn : n < 5) := hflag n ifrT2 (by decide) (by unfold ifrT2; omega)
  refine ⟨?_, ?_, ?_, ?_⟩
  · unfold Via.sampleCa1
    dsimp only
    split
    · exact ⟨⟨rfl, rfl, rfl, rfl, rfl, rfl, hT1 ifrCA1 (by decide)⟩, ⟨rfl, rfl, rfl, hT2 ifrCA1 (by decide)⟩⟩
    · exact ⟨⟨rfl, rfl, rfl, rfl, rfl, rfl, rfl⟩, ⟨rfl, rfl, rfl, rfl⟩⟩
  · unfold Via.sampleCb1
    dsimp only
    split
    · exact ⟨⟨rfl, rfl, rfl, rfl, rfl, rfl, hT1 ifrCB1 (by decide)⟩, ⟨rfl, rfl, rfl, hT2 ifrCB1 (by decide)⟩⟩
    · exact ⟨⟨rfl, rfl, rfl, rfl, rfl, rfl, rfl⟩, ⟨rfl, rfl, rfl, rfl⟩⟩
  · unfold Via.sampleCa2
    dsimp only
    split
    · exact ⟨⟨rfl, rfl, rfl, rfl, rfl, rfl, hT1 ifrCA2 (by decide)⟩, ⟨rfl, rfl, rfl, hT2 ifrCA2 (by decide)⟩⟩
    · exact ⟨⟨rfl, rfl, rfl, rfl, rfl, rfl, rfl⟩, ⟨rfl, rfl, rfl, rfl⟩⟩
  · unfold Via.sampleCb2
    dsimp only
    split
    · exact ⟨⟨rfl, rfl, rfl, rfl, rfl, rfl, hT1 ifrCB2 (by decide)⟩, ⟨rfl, rfl, rfl, hT2 ifrCB2 (by decide)⟩⟩
    · exact ⟨⟨rfl, rfl, rfl, rfl, rfl, rfl, rfl⟩, ⟨rfl, rfl, rfl, rfl⟩⟩

theorem controlLinesCycle_same (inp : ChipInputs) (v : Via) :
    SameTimer1 v (v.controlLinesCycle inp) ∧ SameTimer2 v (v.controlLinesCycle inp) := by
  obtain ⟨h1, -, -, -⟩ := sample_same inp v
  obtain ⟨-, h2, -, -⟩ := sample_same inp (v.sampleCa1 inp)
  obtain ⟨-, -, h3, -⟩ := sample_same inp ((v.sampleCa1 inp).sampleCb1 inp)
  obtain ⟨-, -, -, h4⟩ := sample_same inp (((v.sampleCa1 inp).sampleCb1 inp).sampleCa2 inp)
  exact ⟨((h1.1.trans h2.1).trans h3.1).trans h4.1, ((h1.2.trans h2.2).trans h3.2).trans h4.2⟩

/-- Of a whole chip cycle, timer 1 sees its own part only. -/
theorem cycle_timer1 (inp : ChipInputs) (v : Via) : SameTimer1 v.timer1Cycle (v.cycle inp) :=
  (timer2Cycle_same v.timer1Cycle).1.trans (controlLinesCycle_same inp _).1

/-- Of a whole chip cycle, timer 2 sees its own part only. -/
theorem cycle_timer2 (inp : ChipInputs) (v : Via) : SameTimer2 v.timer1Cycle.timer2Cycle (v.cycle inp) :=
  (controlLinesCycle_same inp _).2

/-! ### Timer 1 -/

/-- Rule R621, case by case: the cycle that follows a load. -/
theorem timer1Cycle_of_hold {v : Via} (h : v.t1Hold = true) : v.timer1Cycle = { v with t1Hold := false } := if_pos h

theorem timer1Cycle_of_reload {v : Via} (hh : v.t1Hold = false) (hr : v.t1Reload = true) :
    v.timer1Cycle = { v with t1c := v.t1l, t1Reload := false } := by
  rw [Via.timer1Cycle, if_neg (ne_true_of_eq_false hh), if_pos hr]

theorem timer1Cycle_of_count {v : Via} (hh : v.t1Hold = false) (hr : v.t1Reload = false) (hc : v.t1c ≠ 0) :
    v.timer1Cycle = { v with t1c := v.t1c - 1 } := by
  rw [Via.timer1Cycle, if_neg (ne_true_of_eq_false hh), if_neg (ne_true_of_eq_false hr), if_neg hc]

theorem timer1Cycle_of_free {v : Via} (hh : v.t1Hold = false) (hr : v.t1Reload = false) (hc : v.t1c = 0)
    (hm : v.acr.getLsbD 6 = true) : v.timer1Cycle = { v.setFlag ifrT1 with t1c := 0xFFFF, t1Reload := true } := by
  rw [Via.timer1Cycle, if_neg (ne_true_of_eq_false hh), if_neg (ne_true_of_eq_false hr), if_pos hc, if_pos hm]

theorem timer1Cycle_of_oneShot {v : Via} (hh : v.t1Hold = false) (hr : v.t1Reload = false) (hc : v.t1c = 0)
    (hm : v.acr.getLsbD 6 = false) (ha : v.t1Armed = true) :
    v.timer1Cycle = { v.setFlag ifrT1 with t1c := 0xFFFF, t1Armed := false } := by
  rw [Via.timer1Cycle, if_neg (ne_true_of_eq_false hh), if_neg (ne_true_of_eq_false hr), if_pos hc,
    if_neg (ne_true_of_eq_false hm), if_pos ha]

/-- Timer 1 counts: `n` is in the counter, its flag is clear, and it will fire, in the mode bit `free` or armed. -/
structure Counting1 (free : Bool) (n : Nat) (v : Via) : Prop where
  hold : v.t1Hold = false
  reload : v.t1Reload = false
  mode : v.acr.getLsbD 6 = free
  fires : free = true ∨ v.t1Armed = true
  count : v.t1c.toNat = n
  flag : v.ifr.getLsbD ifrT1 = false

/-- Timer 1 has underflowed: the flag set, the counter wrapped, the one-shot spent or a reload due (rule R621). -/
structure Fired1 (free : Bool) (v : Via) : Prop where
  flag : v.ifr.getLsbD ifrT1 = true
  count : v.t1c = 0xFFFF
  spent : free = false → v.t1Armed = false
  reload : free = true → v.t1Reload = true

theorem Counting1.cycle {free : Bool} {n : Nat} {v : Via} (h : Counting1 free (n + 1) v) (inp : ChipInputs) :
    Counting1 free n (v.cycle inp) := by
  have hs := cycle_timer1 inp v
  have hne : v.t1c ≠ 0 := by intro h0; have := h.count; rw [h0] at this; simp at this
  rw [timer1Cycle_of_count h.hold h.reload hne] at hs
  have hcount : (v.t1c - 1).toNat = n := by have := h.count; bv_omega
  exact ⟨hs.t1Hold.trans h.hold, hs.t1Reload.trans h.reload, by rw [hs.acr]; exact h.mode,
    h.fires.imp_right hs.t1Armed.trans, by rw [hs.t1c]; exact hcount, hs.flag.trans h.flag⟩

theorem Counting1.fire {free : Bool} {v : Via} (h : Counting1 free 0 v) (inp : ChipInputs) :
    Fired1 free (v.cycle inp) := by
  have hs := cycle_timer1 inp v
  have h0 : v.t1c = 0 := BitVec.eq_of_toNat_eq h.count
  have hflag : (v.setFlag ifrT1).ifr.getLsbD ifrT1 = true := by
    rw [flag_setFlag v _ (by decide), decide_eq_true rfl, Bool.or_true]
  have hmode := h.mode
  cases free with
  | true =>
    rw [timer1Cycle_of_free h.hold h.reload h0 hmode] at hs
    exact ⟨hs.flag.trans hflag, hs.t1c, nofun, fun _ => hs.t1Reload⟩
  | false =>
    have harmed : v.t1Armed = true := h.fires.resolve_left Bool.false_ne_true
    rw [timer1Cycle_of_oneShot h.hold h.reload h0 hmode harmed] at hs
    exact ⟨hs.flag.trans hflag, hs.t1c, fun _ => hs.t1Armed, nofun⟩

/-- The chip after a cycle for each of the given inputs. -/
def run (inputs : List ChipInputs) (v : Via) : Via := inputs.foldl (fun v i => Via.cycle i v) v

theorem run_cons (i : ChipInputs) (is : List ChipInputs) (v : Via) : run (i :: is) v = run is (v.cycle i) := rfl

/-- From a counter of `n` the flag is set in cycle `n + 1` and not before (rule R623). -/
theorem Counting1.run {free : Bool} (inputs : List ChipInputs) {n : Nat} {v : Via} (h : Counting1 free n v) :
    (inputs.length ≤ n → Counting1 free (n - inputs.length) (run inputs v)) ∧
      (inputs.length = n + 1 → Fired1 free (run inputs v)) := by
  induction inputs generalizing n v with
  | nil => exact ⟨fun _ => h, nofun⟩
  | cons i is ih =>
    rw [List.length_cons, run_cons]
    cases n with
    | zero =>
      refine ⟨fun hl => absurd hl (by omega), fun hl => ?_⟩
      have hnil : is = [] := List.eq_nil_of_length_eq_zero (by omega)
      rw [hnil]
      exact h.fire i
    | succ n =>
      obtain ⟨hcount, hfire⟩ := ih (h.cycle i)
      rw [Nat.add_sub_add_right]
      exact ⟨fun hl => hcount (by omega), fun hl => hfire (by omega)⟩

/-- The state a write of T1C-H leaves (rule R609). -/
theorem write_t1ch (v : Via) (x : Byte) :
    v.write 5 x =
      { v.clearFlag ifrT1 with
        t1l := mk16 x (loByte v.t1l), t1c := mk16 x (loByte v.t1l), t1Armed := true, t1Hold := true, t1Reload := false } :=
  rfl

theorem mk16_loByte_toNat (x : Byte) (w : Addr) : (mk16 x (loByte w)).toNat = 256 * x.toNat + w.toNat % 256 := by
  rw [mk16_toNat, loByte_toNat, Nat.mul_comm]

/-- The one cycle that follows the write holds the counter (decision D30). -/
theorem counting1_of_write (v : Via) (x : Byte) (inp : ChipInputs) :
    Counting1 (v.acr.getLsbD 6) (256 * x.toNat + v.t1l.toNat % 256) ((v.write 5 x).cycle inp) := by
  have hs := cycle_timer1 inp (v.write 5 x)
  rw [timer1Cycle_of_hold (v := v.write 5 x) rfl] at hs
  refine ⟨hs.t1Hold, hs.t1Reload, by rw [hs.acr]; rfl, .inr hs.t1Armed, ?_, hs.flag.trans ?_⟩
  · rw [hs.t1c]; exact mk16_loByte_toNat x v.t1l
  · exact (flag_clearFlag v ifrT1 (by decide)).trans (by rw [decide_eq_true rfl]; exact Bool.and_false _)

/-! ### Timer 2 -/

/-- Rule R622, case by case: the cycle that follows a load. -/
theorem timer2Cycle_of_hold {v : Via} (h : v.t2Hold = true) : v.timer2Cycle = { v with t2Hold := false } := if_pos h

theorem timer2Cycle_of_count {v : Via} (hh : v.t2Hold = false) (hc : v.t2c ≠ 0) :
    v.timer2Cycle = { v with t2c := v.t2c - 1 } := by
  rw [Via.timer2Cycle, if_neg (ne_true_of_eq_false hh), if_neg hc]

theorem timer2Cycle_of_armed {v : Via} (hh : v.t2Hold = false) (hc : v.t2c = 0) (ha : v.t2Armed = true) :
    v.timer2Cycle = { v.setFlag ifrT2 with t2c := 0xFFFF, t2Armed := false } := by
  rw [Via.timer2Cycle, if_neg (ne_true_of_eq_false hh), if_pos hc, if_pos ha]

theorem timer2Cycle_of_spent {v : Via} (hh : v.t2Hold = false) (hc : v.t2c = 0) (ha : v.t2Armed = false) :
    v.timer2Cycle = { v with t2c := 0xFFFF } := by
  rw [Via.timer2Cycle, if_neg (ne_true_of_eq_false hh), if_pos hc, if_neg (ne_true_of_eq_false ha)]

/-- Timer 2 counts, armed, `n` in the counter and its flag clear. -/
structure Counting2 (n : Nat) (v : Via) : Prop where
  hold : v.t2Hold = false
  armed : v.t2Armed = true
  count : v.t2c.toNat = n
  flag : v.ifr.getLsbD ifrT2 = false

/-- Timer 2 has underflowed (rule R622). -/
structure Fired2 (v : Via) : Prop where
  flag : v.ifr.getLsbD ifrT2 = true
  count : v.t2c = 0xFFFF
  spent : v.t2Armed = false

theorem Counting2.of_same {n : Nat} {v w : Via} (h : Counting2 n v) (hs : SameTimer2 v w) : Counting2 n w :=
  ⟨hs.t2Hold.trans h.hold, hs.t2Armed.trans h.armed, by rw [hs.t2c]; exact h.count, hs.flag.trans h.flag⟩

theorem Counting2.cycle {n : Nat} {v : Via} (h : Counting2 (n + 1) v) (inp : ChipInputs) :
    Counting2 n (v.cycle inp) := by
  have hs := cycle_timer2 inp v
  have h' := h.of_same (timer1Cycle_same v).1
  have hne : v.timer1Cycle.t2c ≠ 0 := by intro h0; have := h'.count; rw [h0] at this; simp at this
  rw [timer2Cycle_of_count h'.hold hne] at hs
  have hcount : (v.timer1Cycle.t2c - 1).toNat = n := by have := h'.count; bv_omega
  exact ⟨hs.t2Hold.trans h'.hold, hs.t2Armed.trans h'.armed, by rw [hs.t2c]; exact hcount, hs.flag.trans h'.flag⟩

theorem Counting2.fire {v : Via} (h : Counting2 0 v) (inp : ChipInputs) : Fired2 (v.cycle inp) := by
  have hs := cycle_timer2 inp v
  have h' := h.of_same (timer1Cycle_same v).1
  have h0 : v.timer1Cycle.t2c = 0 := BitVec.eq_of_toNat_eq h'.count
  rw [timer2Cycle_of_armed h'.hold h0 h'.armed] at hs
  refine ⟨hs.flag.trans ?_, hs.t2c, hs.t2Armed⟩
  exact (flag_setFlag _ ifrT2 (by decide)).trans (by rw [decide_eq_true rfl, Bool.or_true])

theorem Counting2.run (inputs : List ChipInputs) {n : Nat} {v : Via} (h : Counting2 n v) :
    (inputs.length ≤ n → Counting2 (n - inputs.length) (run inputs v)) ∧
      (inputs.length = n + 1 → Fired2 (run inputs v)) := by
  induction inputs generalizing n v with
  | nil => exact ⟨fun _ => h, nofun⟩
  | cons i is ih =>
    rw [List.length_cons, run_cons]
    cases n with
    | zero =>
      refine ⟨fun hl => absurd hl (by omega), fun hl => ?_⟩
      have hnil : is = [] := List.eq_nil_of_length_eq_zero (by omega)
      rw [hnil]
      exact h.fire i
    | succ n =>
      obtain ⟨hcount, hfire⟩ := ih (h.cycle i)
      rw [Nat.add_sub_add_right]
      exact ⟨fun hl => hcount (by omega), fun hl => hfire (by omega)⟩

theorem write_t2ch (v : Via) (x : Byte) :
    v.write 9 x = { v.clearFlag ifrT2 with t2c := mk16 x v.t2ll, t2Armed := true, t2Hold := true } := rfl

theorem flag_write_t2ch (v : Via) (x : Byte) : (v.write 9 x).ifr.getLsbD ifrT2 = false :=
  (flag_clearFlag v ifrT2 (by decide)).trans (by rw [decide_eq_true rfl]; exact Bool.and_false _)

theorem flag_write_t1ch (v : Via) (x : Byte) : (v.write 5 x).ifr.getLsbD ifrT1 = false :=
  (flag_clearFlag v ifrT1 (by decide)).trans (by rw [decide_eq_true rfl]; exact Bool.and_false _)

theorem count_write_t2ch (v : Via) (x : Byte) : (v.write 9 x).t2c.toNat = 256 * x.toNat + v.t2ll.toNat := by
  rw [write_t2ch, mk16_toNat, Nat.mul_comm]

theorem counting2_of_write (v : Via) (x : Byte) (inp : ChipInputs) :
    Counting2 (256 * x.toNat + v.t2ll.toNat) ((v.write 9 x).cycle inp) := by
  have hs := cycle_timer2 inp (v.write 9 x)
  have h1 := (timer1Cycle_same (v.write 9 x)).1
  rw [timer2Cycle_of_hold h1.t2Hold] at hs
  exact ⟨hs.t2Hold, hs.t2Armed.trans h1.t2Armed, by rw [hs.t2c, h1.t2c]; exact count_write_t2ch v x,
    hs.flag.trans (h1.flag.trans (flag_write_t2ch v x))⟩

/-- Settles O53: one cycle of hold, then the countdown. -/
theorem timerUnderflow : Obligations.TimerUnderflow := by
  intro v x inputs
  refine ⟨⟨mk16_loByte_toNat x v.t1l, mk16_loByte_toNat x v.t1l, flag_write_t1ch v x, ?_⟩,
    ⟨count_write_t2ch v x, flag_write_t2ch v x, ?_⟩⟩
  · cases inputs with
    | nil => exact ⟨fun h => absurd h (by simp), fun _ => flag_write_t1ch v x, nofun⟩
    | cons i is =>
      obtain ⟨hcount, hfire⟩ := (counting1_of_write v x i).run is
      refine ⟨fun _ hj => ?_, fun hj => ?_, fun hj => ?_⟩ <;> simp only [List.length_cons] at hj ⊢
      · rw [Nat.add_sub_add_right]; exact (hcount (by omega)).count
      · exact (hcount (by omega)).flag
      · have hf := hfire (by omega)
        exact ⟨hf.flag, hf.count, hf.spent, hf.reload⟩
  · cases inputs with
    | nil => exact ⟨fun h => absurd h (by simp), fun _ => flag_write_t2ch v x, nofun⟩
    | cons i is =>
      obtain ⟨hcount, hfire⟩ := (counting2_of_write v x i).run is
      refine ⟨fun _ hj => ?_, fun hj => ?_, fun hj => ?_⟩ <;> simp only [List.length_cons] at hj ⊢
      · rw [Nat.add_sub_add_right]; exact (hcount (by omega)).count
      · exact (hcount (by omega)).flag
      · have hf := hfire (by omega)
        exact ⟨hf.flag, hf.count, hf.spent⟩

/-! ### The modes of the timers -/

/-- What every cycle keeps holds after any run. -/
theorem run_keeps {P : Via → Prop} (h : ∀ inp v, P v → P (v.cycle inp)) (inputs : List ChipInputs) {v : Via} (hv : P v) :
    P (run inputs v) := by
  induction inputs generalizing v with
  | nil => exact hv
  | cons i is ih => exact ih (h i v hv)

/-- Timer 1 in one-shot mode, its one-shot spent and its flag clear. -/
def Spent1 (v : Via) : Prop := v.acr.getLsbD 6 = false ∧ v.t1Armed = false ∧ v.ifr.getLsbD ifrT1 = false

theorem Spent1.cycle (inp : ChipInputs) (v : Via) (h : Spent1 v) : Spent1 (v.cycle inp) := by
  obtain ⟨hmode, harmed, hflag⟩ := h
  have hs := cycle_timer1 inp v
  have ht : Spent1 v.timer1Cycle := by
    rw [Via.timer1Cycle, if_neg (ne_true_of_eq_false hmode), if_neg (ne_true_of_eq_false harmed)]
    split
    · exact ⟨hmode, harmed, hflag⟩
    split
    · exact ⟨hmode, harmed, hflag⟩
    split <;> exact ⟨hmode, harmed, hflag⟩
  exact ⟨by rw [hs.acr]; exact ht.1, hs.t1Armed.trans ht.2.1, hs.flag.trans ht.2.2⟩

/-- Timer 2 with its one-shot spent and its flag clear. -/
def Spent2 (v : Via) : Prop := v.t2Armed = false ∧ v.ifr.getLsbD ifrT2 = false

theorem Spent2.cycle (inp : ChipInputs) (v : Via) (h : Spent2 v) : Spent2 (v.cycle inp) := by
  obtain ⟨harmed, hflag⟩ := h
  have h1 := (timer1Cycle_same v).1
  have hs := cycle_timer2 inp v
  have ht : Spent2 v.timer1Cycle.timer2Cycle := by
    have h' : Spent2 v.timer1Cycle := ⟨h1.t2Armed.trans harmed, h1.flag.trans hflag⟩
    obtain ⟨harmed', hflag'⟩ := h'
    rw [Via.timer2Cycle, if_neg (ne_true_of_eq_false harmed')]
    split
    · exact ⟨harmed', hflag'⟩
    split <;> exact ⟨harmed', hflag'⟩
  exact ⟨hs.t2Armed.trans ht.1, hs.flag.trans ht.2⟩

/-- With no hold timer 2 counts down by one a cycle, modulo 65536. -/
theorem t2c_cycle (inp : ChipInputs) {v : Via} (h : v.t2Hold = false) :
    (v.cycle inp).t2Hold = false ∧ (v.cycle inp).t2c = v.t2c - 1 := by
  have h1 := (timer1Cycle_same v).1
  have hs := cycle_timer2 inp v
  have hhold : v.timer1Cycle.t2Hold = false := h1.t2Hold.trans h
  have ht : v.timer1Cycle.timer2Cycle.t2Hold = false ∧ v.timer1Cycle.timer2Cycle.t2c = v.timer1Cycle.t2c - 1 := by
    by_cases h0 : v.timer1Cycle.t2c = 0
    · have hwrap : (0xFFFF : BitVec 16) = v.timer1Cycle.t2c - 1 := by rw [h0]; decide
      cases harmed : v.timer1Cycle.t2Armed with
      | true => rw [timer2Cycle_of_armed hhold h0 harmed]; exact ⟨hhold, hwrap⟩
      | false => rw [timer2Cycle_of_spent hhold h0 harmed]; exact ⟨hhold, hwrap⟩
    · rw [timer2Cycle_of_count hhold h0]; exact ⟨hhold, rfl⟩
  exact ⟨hs.t2Hold.trans ht.1, by rw [hs.t2c, ht.2, h1.t2c]⟩

theorem t2c_run (inputs : List ChipInputs) {v : Via} (h : v.t2Hold = false) :
    (run inputs v).t2c = v.t2c - BitVec.ofNat 16 inputs.length := by
  induction inputs generalizing v with
  | nil => simp [run]
  | cons i is ih =>
    obtain ⟨hhold, hc⟩ := t2c_cycle i h
    rw [run_cons, ih hhold, hc, List.length_cons, BitVec.sub_sub]
    congr 1
    rw [Nat.add_comm, BitVec.ofNat_add]
    rfl

/-- At a reload timer 1 takes the latch and counts from it. -/
theorem counting1_of_reload {v : Via} (inp : ChipInputs) (hmode : v.acr.getLsbD 6 = true) (hhold : v.t1Hold = false)
    (hreload : v.t1Reload = true) (hflag : v.ifr.getLsbD ifrT1 = false) :
    Counting1 true v.t1l.toNat (v.cycle inp) := by
  have hs := cycle_timer1 inp v
  rw [timer1Cycle_of_reload hhold hreload] at hs
  exact ⟨hs.t1Hold.trans hhold, hs.t1Reload, by rw [hs.acr]; exact hmode, .inl rfl, by rw [hs.t1c], hs.flag.trans hflag⟩

/-- Settles O54. -/
theorem timerModes : Obligations.TimerModes := by
  intro v inputs
  refine ⟨fun hmode harmed hflag => ?_, fun harmed hflag => ?_, t2c_run inputs, fun hmode hhold hreload => ?_⟩
  · exact (run_keeps Spent1.cycle inputs ⟨hmode, harmed, hflag⟩).2.2
  · exact (run_keeps Spent2.cycle inputs ⟨harmed, hflag⟩).2
  · have hflag : (v.clearFlag ifrT1).ifr.getLsbD ifrT1 = false :=
      (flag_clearFlag v ifrT1 (by decide)).trans (by rw [decide_eq_true rfl]; exact Bool.and_false _)
    cases inputs with
    | nil => exact ⟨fun _ => hflag, nofun⟩
    | cons i is =>
      obtain ⟨hcount, hfire⟩ := (counting1_of_reload (v := v.clearFlag ifrT1) i hmode hhold hreload hflag).run is
      refine ⟨fun hj => (hcount ?_).flag, fun hj => ?_⟩
      · simp only [List.length_cons] at hj; change is.length ≤ v.t1l.toNat; omega
      · have hf := hfire (by simp only [List.length_cons] at hj; change is.length = v.t1l.toNat + 1; omega)
        exact ⟨hf.flag, hf.reload rfl⟩

end Sys2Proof.Proofs.TimerChip

/-! The invariant of the machine (rules R36, R605, R640, R652, R705): no register access and no chip cycle breaks it, so no
part of a tick does, and no step. -/

namespace Sys2Proof.Proofs.Invariant

open Sys2Proof Sys2Proof.Machine Sys2Proof.Proofs.Cycles Sys2Proof.Proofs.TimerChip

/-! ### The settings of a timer chip -/

theorem settings_timer1Cycle (v : Via) : v.timer1Cycle.settings = v.settings := by
  unfold Via.timer1Cycle
  repeat' split
  all_goals rfl

theorem settings_timer2Cycle (v : Via) : v.timer2Cycle.settings = v.settings := by
  unfold Via.timer2Cycle
  repeat' split
  all_goals rfl

theorem settings_controlLinesCycle (inp : ChipInputs) (v : Via) : (v.controlLinesCycle inp).settings = v.settings := by
  have ha1 (v : Via) : (v.sampleCa1 inp).settings = v.settings := by unfold Via.sampleCa1; dsimp only; split <;> rfl
  have hb1 (v : Via) : (v.sampleCb1 inp).settings = v.settings := by unfold Via.sampleCb1; dsimp only; split <;> rfl
  have ha2 (v : Via) : (v.sampleCa2 inp).settings = v.settings := by unfold Via.sampleCa2; dsimp only; split <;> rfl
  have hb2 (v : Via) : (v.sampleCb2 inp).settings = v.settings := by unfold Via.sampleCb2; dsimp only; split <;> rfl
  rw [Via.controlLinesCycle, hb2, ha2, hb1, ha1]

/-- A chip cycle changes no setting. -/
@[simp] theorem settings_cycle (inp : ChipInputs) (v : Via) : (v.cycle inp).settings = v.settings := by
  rw [Via.cycle, settings_controlLinesCycle, settings_timer2Cycle, settings_timer1Cycle]

/-- A read changes no setting. -/
@[simp] theorem settings_clearOnRead (r : BitVec 4) (v : Via) : (v.clearOnRead r).settings = v.settings := by
  have ha : v.clearPortA.settings = v.settings := by unfold Via.clearPortA; dsimp only; split <;> rfl
  have hb : v.clearPortB.settings = v.settings := by unfold Via.clearPortB; dsimp only; split <;> rfl
  unfold Via.clearOnRead
  split
  case h_1 => exact hb
  case h_2 => exact ha
  all_goals rfl

/-! ### The invariant of a timer chip -/

/-- The shift register's flag stays clear where no flag but others' is set. -/
def KeepsShiftFlag (v w : Via) : Prop := v.ifr.getLsbD ifrSR = false → w.ifr.getLsbD ifrSR = false

theorem KeepsShiftFlag.trans {u v w : Via} (h : KeepsShiftFlag u v) (g : KeepsShiftFlag v w) : KeepsShiftFlag u w :=
  fun hu => g (h hu)

theorem keepsShiftFlag_setFlag (v : Via) {n : Nat} (hn : n ≠ ifrSR) : KeepsShiftFlag v (v.setFlag n) := by
  intro h
  rw [flag_setFlag v n (by decide), h, decide_eq_false hn, Bool.or_false]

theorem keepsShiftFlag_clearFlag (v : Via) (n : Nat) : KeepsShiftFlag v (v.clearFlag n) := by
  intro h
  rw [flag_clearFlag v n (by decide), h, Bool.false_and]

/-- What a chip's invariant rests on. -/
theorem inv_of_settings {v w : Via} (h : v.Inv) (hs : w.settings = v.settings) (hf : KeepsShiftFlag v w) : w.Inv := by
  obtain ⟨hifr, hca2, hcb2⟩ := h
  have hpcr : w.pcr = v.pcr := congrArg ViaSettings.pcr hs
  have hca : w.ca2Out = v.ca2Out := congrArg ViaSettings.ca2Out hs
  have hcb : w.cb2Out = v.cb2Out := congrArg ViaSettings.cb2Out hs
  refine ⟨hf hifr, ?_, ?_⟩
  · rw [hca, hca2, Via.ca2Control, Via.ca2Control, hpcr]
  · rw [hcb, hcb2, Via.cb2Control, Via.cb2Control, hpcr]

theorem keepsShiftFlag_cycle (inp : ChipInputs) (v : Via) : KeepsShiftFlag v (v.cycle inp) := by
  have h1 : KeepsShiftFlag v v.timer1Cycle := fun h => ((timer1Cycle_same v).2.flags ifrSR (by decide)).trans h
  have h2 (v : Via) : KeepsShiftFlag v v.timer2Cycle := fun h => ((timer2Cycle_same v).2.flags ifrSR (by decide)).trans h
  have ha1 (v : Via) : KeepsShiftFlag v (v.sampleCa1 inp) := by
    unfold Via.sampleCa1
    dsimp only
    split
    · exact keepsShiftFlag_setFlag v (by decide)
    · exact id
  have hb1 (v : Via) : KeepsShiftFlag v (v.sampleCb1 inp) := by
    unfold Via.sampleCb1
    dsimp only
    split
    · exact keepsShiftFlag_setFlag v (by decide)
    · exact id
  have ha2 (v : Via) : KeepsShiftFlag v (v.sampleCa2 inp) := by
    unfold Via.sampleCa2
    dsimp only
    split
    · exact keepsShiftFlag_setFlag v (by decide)
    · exact id
  have hb2 (v : Via) : KeepsShiftFlag v (v.sampleCb2 inp) := by
    unfold Via.sampleCb2
    dsimp only
    split
    · exact keepsShiftFlag_setFlag v (by decide)
    · exact id
  exact ((((h1.trans (h2 _)).trans (ha1 _)).trans (hb1 _)).trans (ha2 _)).trans (hb2 _)

theorem inv_cycle (inp : ChipInputs) {v : Via} (h : v.Inv) : (v.cycle inp).Inv :=
  inv_of_settings h (settings_cycle inp v) (keepsShiftFlag_cycle inp v)

theorem keepsShiftFlag_clearPortA (v : Via) : KeepsShiftFlag v v.clearPortA := by
  unfold Via.clearPortA
  dsimp only
  split
  · exact keepsShiftFlag_clearFlag v ifrCA1
  · exact (keepsShiftFlag_clearFlag v ifrCA1).trans (keepsShiftFlag_clearFlag _ ifrCA2)

theorem keepsShiftFlag_clearPortB (v : Via) : KeepsShiftFlag v v.clearPortB := by
  unfold Via.clearPortB
  dsimp only
  split
  · exact keepsShiftFlag_clearFlag v ifrCB1
  · exact (keepsShiftFlag_clearFlag v ifrCB1).trans (keepsShiftFlag_clearFlag _ ifrCB2)

theorem inv_clearOnRead (r : BitVec 4) {v : Via} (h : v.Inv) : (v.clearOnRead r).Inv := by
  refine inv_of_settings h (settings_clearOnRead r v) ?_
  unfold Via.clearOnRead
  split
  · exact keepsShiftFlag_clearPortB v
  · exact keepsShiftFlag_clearPortA v
  · exact keepsShiftFlag_clearFlag v ifrT1
  · exact keepsShiftFlag_clearFlag v ifrT2
  · exact keepsShiftFlag_clearFlag v ifrSR
  · exact id

/-- What a write leaves of the invariant where it does not touch PCR and the outputs that follow it. -/
theorem inv_of_pcr {v w : Via} (h : v.Inv) (hpcr : w.pcr = v.pcr) (hca : w.ca2Out = v.ca2Out) (hcb : w.cb2Out = v.cb2Out)
    (hf : KeepsShiftFlag v w) : w.Inv := by
  obtain ⟨hifr, hca2, hcb2⟩ := h
  refine ⟨hf hifr, ?_, ?_⟩
  · rw [hca, hca2, Via.ca2Control, Via.ca2Control, hpcr]
  · rw [hcb, hcb2, Via.cb2Control, Via.cb2Control, hpcr]

theorem clearPortA_pcr (v : Via) :
    v.clearPortA.pcr = v.pcr ∧ v.clearPortA.ca2Out = v.ca2Out ∧ v.clearPortA.cb2Out = v.cb2Out := by
  unfold Via.clearPortA
  dsimp only
  split <;> exact ⟨rfl, rfl, rfl⟩

theorem clearPortB_pcr (v : Via) :
    v.clearPortB.pcr = v.pcr ∧ v.clearPortB.ca2Out = v.ca2Out ∧ v.clearPortB.cb2Out = v.cb2Out := by
  unfold Via.clearPortB
  dsimp only
  split <;> exact ⟨rfl, rfl, rfl⟩

/-- A register write keeps the chip's invariant: a write of PCR recomputes the outputs, no other touches them. -/
theorem inv_write (r : BitVec 4) (x : Byte) {v : Via} (h : v.Inv) : (v.write r x).Inv := by
  obtain ⟨ha, ha2, hab2⟩ := clearPortA_pcr v
  obtain ⟨hb, hb2, hbb2⟩ := clearPortB_pcr v
  unfold Via.write
  split
  case h_1 => exact inv_of_pcr h hb hb2 hbb2 (keepsShiftFlag_clearPortB v)
  case h_2 => exact inv_of_pcr h ha ha2 hab2 (keepsShiftFlag_clearPortA v)
  case h_6 => exact inv_of_pcr h rfl rfl rfl (keepsShiftFlag_clearFlag v ifrT1)
  case h_8 => exact inv_of_pcr h rfl rfl rfl (keepsShiftFlag_clearFlag v ifrT1)
  case h_10 => exact inv_of_pcr h rfl rfl rfl (keepsShiftFlag_clearFlag v ifrT2)
  case h_11 => exact inv_of_pcr h rfl rfl rfl (keepsShiftFlag_clearFlag v ifrSR)
  case h_13 => exact ⟨h.1, rfl, rfl⟩
  case h_14 =>
    refine inv_of_pcr h rfl rfl rfl (fun hv => ?_)
    rw [BitVec.getLsbD_and, hv, Bool.false_and]
  case h_15 =>
    unfold Via.writeIer
    split <;> exact inv_of_pcr h rfl rfl rfl id
  all_goals exact inv_of_pcr h rfl rfl rfl id

/-! ### The invariant of the machine -/

/-- The invariant but for the step index. -/
structure ChipsInv (s : State) : Prop where
  mem : s.mem.wf = true
  nmi : s.lines.nmiLevel = s.via1.pinLevel
  irq : s.lines.irqLevel = s.via2.pinLevel
  via1 : s.via1.Inv
  via2 : s.via2.Inv
  vic : s.vic.Inv s.cfg

theorem inv_iff (s : State) : s.Inv ↔ ChipsInv s ∧ s.InProgram :=
  ⟨fun h => ⟨⟨h.mem, h.nmi, h.irq, h.via1, h.via2, h.vic⟩, h.inProgram⟩,
    fun ⟨h, hp⟩ => ⟨h.mem, hp, h.nmi, h.irq, h.via1, h.via2, h.vic⟩⟩

/-- A chip's new state with its pin on the line (rule R605). -/
theorem ChipsInv.updateVia {s : State} (h : ChipsInv s) (id : ViaId) {v : Via} (hv : v.Inv) :
    ChipsInv (s.updateVia id v) := by
  cases id with
  | via1 => exact ⟨h.mem, rfl, h.irq, hv, h.via2, h.vic⟩
  | via2 => exact ⟨h.mem, h.nmi, rfl, h.via1, hv, h.vic⟩

theorem ChipsInv.via {s : State} (h : ChipsInv s) : (id : ViaId) → (s.via id).Inv
  | .via1 => h.via1
  | .via2 => h.via2

theorem ChipsInv.viaCycle {s : State} (h : ChipsInv s) (id : ViaId) : ChipsInv (viaCycle id s) :=
  h.updateVia id (inv_cycle _ (h.via id))

theorem ChipsInv.drawInputs {s : State} (h : ChipsInv s) : ChipsInv (drawInputs s) := by
  unfold Machine.drawInputs
  split
  · exact h
  · exact ⟨h.mem, h.nmi, h.irq, h.via1, h.via2, h.vic⟩

theorem ChipsInv.call {s : State} (h : ChipsInv s) (calls : List HostCall) : ChipsInv { s with hostCalls := calls } :=
  ⟨h.mem, h.nmi, h.irq, h.via1, h.via2, h.vic⟩

theorem inv_vicWrite {k : MachineCfg} {v : Vic} (h : v.Inv k) (r : BitVec 4) (x : Byte) : (v.write r x).Inv k := by
  unfold Vic.write
  split <;> exact h

theorem ChipsInv.busWrite {s : State} (h : ChipsInv s) (a : Addr) (x : Byte) : ChipsInv (busWrite a x s) := by
  refine busWrite_keeps a x s h (fun c y _ => ?_) (fun r s h => ?_) (fun id r s h => ?_)
  · exact ⟨rawWrite_wf h.mem c y, h.nmi, h.irq, h.via1, h.via2, h.vic⟩
  · exact ⟨h.mem, h.nmi, h.irq, h.via1, h.via2, inv_vicWrite h.vic r x⟩
  · exact (h.call _).updateVia id (inv_write r x (h.via id))

/-- No part of a tick breaks the invariant. -/
theorem keptByBus_chipsInv : KeptByBus ChipsInv where
  before := fun _ h =>
    have h := h.drawInputs
    ⟨h.mem, h.nmi, h.irq, h.via1, h.via2, VideoCycle.inv_cycle _ h.vic⟩
  after := fun _ h => (h.viaCycle .via1).viaCycle .via2
  withCpu := fun _ _ h => ⟨h.mem, h.nmi, h.irq, h.via1, h.via2, h.vic⟩
  lines := fun s h =>
    have ⟨hirq, hnmi⟩ := Boundary.boundaryLines_levels s
    ⟨h.mem, hnmi.trans h.nmi, hirq.trans h.irq, h.via1, h.via2, h.vic⟩
  read := busRead_keeps (fun id r _ h => h.updateVia id (inv_clearOnRead r (h.via id)))
  write := fun a x _ h => h.busWrite a x
  call := fun _ _ h => h.call _

/-- Settles O7: the chips' part is what no part of a tick breaks, and the step ends between programs. -/
theorem stepKeepsInvariant : Obligations.StepKeepsInvariant := by
  intro s t hs hstep
  obtain ⟨hchips, hprog⟩ := (inv_iff s).mp hs
  obtain ⟨u, hu, n, -, -, hend, -⟩ := StepTicks.step_reachesBoundary hprog
  have htu : t = u := by rw [hu, Host.Outcome.next.injEq] at hstep; exact hstep.symm
  exact (inv_iff t).mpr ⟨keptByBus_chipsInv.step hstep hchips, .inl (htu ▸ hend)⟩

theorem inv_reset : Via.reset.Inv := ⟨by decide, by decide, by decide⟩

/-- Settles O8. -/
theorem resetHasInvariant : Obligations.ResetHasInvariant where
  mem := reset_mem_wf
  inProgram := .inl rfl
  nmi := by decide
  irq := by decide
  via1 := inv_reset
  via2 := inv_reset
  vic := by
    change Vic.reset.Inv MachineCfg.default
    refine ⟨rfl, ?_, ?_, by simp [Vic.reset], rfl, rfl⟩
    · cases h : MachineCfg.default.variant <;> decide
    · cases h : MachineCfg.default.variant <;> decide

/-! ### What no step changes -/

/-- Traps, map and parameters are those of `s`, and so is every byte that no store reaches. -/
structure SameConfiguration (s t : State) : Prop where
  traps : t.traps = s.traps
  maps : t.maps = s.maps
  cfg : t.cfg = s.cfg
  mem : ∀ c : Addr, (∀ a : Addr, s.storedCell a ≠ some c) → rawRead t.mem c = rawRead s.mem c

theorem SameConfiguration.of_mem {s t u : State} (h : SameConfiguration s t) (htraps : u.traps = t.traps)
    (hmaps : u.maps = t.maps) (hcfg : u.cfg = t.cfg) (hmem : u.mem = t.mem) : SameConfiguration s u :=
  ⟨htraps.trans h.traps, hmaps.trans h.maps, hcfg.trans h.cfg, fun c hc => hmem ▸ h.mem c hc⟩

theorem keptByBus_sameConfiguration (s : State) : KeptByBus (SameConfiguration s) where
  before := fun _ h => h.of_mem (by simp) (by simp) (by simp) (by simp)
  after := fun _ h => h.of_mem (by simp) (by simp) (by simp) (by simp)
  withCpu := fun _ _ h => h.of_mem rfl rfl rfl rfl
  lines := fun _ h => h.of_mem rfl rfl rfl rfl
  read := fun _ _ h => h.of_mem (by simp) (by simp) (by simp) (by simp)
  write := fun a x t h =>
    { traps := (busWrite_traps a x t).trans h.traps
      maps := (busWrite_maps a x t).trans h.maps
      cfg := (busWrite_cfg a x t).trans h.cfg
      mem := fun c hc =>
        (busWrite_other x (by rw [State.storedCell_congr h.maps h.cfg]; exact hc a)).trans (h.mem c hc) }
  call := fun _ _ h => h.of_mem rfl rfl rfl rfl

/-- Settles O52. -/
theorem stepKeepsConfiguration : Obligations.StepKeepsConfiguration := by
  intro s t hstep
  have h := (keptByBus_sameConfiguration s).step hstep ⟨rfl, rfl, rfl, fun _ _ => rfl⟩
  exact ⟨h.traps, h.maps, h.cfg, h.mem⟩

/-! ### What an instruction that stores nothing leaves -/

/-- The frame of reads: memory, configuration and the chips' settings as in `s`. -/
structure SameButFlags (s t : State) : Prop where
  mem : t.mem = s.mem
  traps : t.traps = s.traps
  maps : t.maps = s.maps
  cfg : t.cfg = s.cfg
  chips : ChipsKept s t

theorem settings_viaCycle (id : ViaId) (s : State) :
    (viaCycle id s).via1.settings = s.via1.settings ∧ (viaCycle id s).via2.settings = s.via2.settings := by
  cases id with
  | via1 => exact ⟨settings_cycle _ _, rfl⟩
  | via2 => exact ⟨rfl, settings_cycle _ _⟩

theorem settings_afterCpu (s : State) :
    (afterCpu s).via1.settings = s.via1.settings ∧ (afterCpu s).via2.settings = s.via2.settings := by
  obtain ⟨h1, h2⟩ := settings_viaCycle .via1 s
  obtain ⟨g1, g2⟩ := settings_viaCycle .via2 (viaCycle .via1 s)
  exact ⟨g1.trans h1, g2.trans h2⟩

theorem settings_viaRead (id : ViaId) (r : BitVec 4) (s : State) :
    (viaRead id r s).2.via1.settings = s.via1.settings ∧ (viaRead id r s).2.via2.settings = s.via2.settings := by
  cases id with
  | via1 => exact ⟨settings_clearOnRead _ _, rfl⟩
  | via2 => exact ⟨rfl, settings_clearOnRead _ _⟩

theorem settings_busRead (a : Addr) (s : State) :
    (busRead a s).2.via1.settings = s.via1.settings ∧ (busRead a s).2.via2.settings = s.via2.settings := by
  refine busRead_keeps (P := fun t => t.via1.settings = s.via1.settings ∧ t.via2.settings = s.via2.settings) ?_ a s ⟨rfl, rfl⟩
  intro id r t h
  obtain ⟨h1, h2⟩ := settings_viaRead id r t
  exact ⟨h1.trans h.1, h2.trans h.2⟩

/-- The first half of a video cycle, and the second, leave the registers. -/
theorem cycle_cr (k : MachineCfg) (mem : Memory) (v : Vic) : (v.cycle k mem).cr = v.cr := by
  have hdraw : (v.drawGroup k mem).cr = v.cr := by
    unfold Vic.drawGroup
    dsimp only
    split <;> split <;> split <;> rfl
  have hadv (w : Vic) : (w.advance k).cr = w.cr := by
    by_cases h : w.hcount + 4 = k.variant.totalWidth
    · by_cases hv : w.vcount + 1 = k.variant.totalHeight
      · rw [VideoCycle.advance_endFrame h hv]
      · obtain ⟨d, r, he⟩ := VideoCycle.advance_endLine h hv
        rw [he]
    · rw [VideoCycle.advance_inLine h]
  exact (hadv _).trans hdraw

theorem beforeCpu_cr (s : State) : (beforeCpu s).vic.cr = s.vic.cr := by
  rw [beforeCpu, vicCycle_vic, cycle_cr, drawInputs_vic]

theorem ChipsKept.refl (s : State) : ChipsKept s s := ⟨rfl, rfl, rfl, rfl⟩

theorem ChipsKept.trans {s t u : State} (h : ChipsKept s t) (g : ChipsKept t u) : ChipsKept s u :=
  ⟨g.1.trans h.1, g.2.1.trans h.2.1, g.2.2.1.trans h.2.2.1, g.2.2.2.trans h.2.2.2⟩

theorem chipsKept_beforeCpu (s : State) : ChipsKept s (beforeCpu s) :=
  ⟨beforeCpu_cr s, by rw [beforeCpu_via1], by rw [beforeCpu_via2], beforeCpu_hostCalls s⟩

theorem chipsKept_afterCpu (s : State) : ChipsKept s (afterCpu s) :=
  ⟨by rw [afterCpu_vic], (settings_afterCpu s).1, (settings_afterCpu s).2, afterCpu_hostCalls s⟩

theorem chipsKept_busRead (a : Addr) (s : State) : ChipsKept s (busRead a s).2 :=
  ⟨by rw [busRead_vic], (settings_busRead a s).1, (settings_busRead a s).2, busRead_hostCalls a s⟩

theorem keptByReads_sameButFlags (s : State) : KeptByReads (SameButFlags s) where
  before := fun t h => ⟨(beforeCpu_mem t).trans h.mem, (beforeCpu_traps t).trans h.traps, (beforeCpu_maps t).trans h.maps,
    (beforeCpu_cfg t).trans h.cfg, ChipsKept.trans h.chips (chipsKept_beforeCpu t)⟩
  after := fun t h => ⟨(afterCpu_mem t).trans h.mem, (afterCpu_traps t).trans h.traps, (afterCpu_maps t).trans h.maps,
    (afterCpu_cfg t).trans h.cfg, ChipsKept.trans h.chips (chipsKept_afterCpu t)⟩
  withCpu := fun _ _ h => ⟨h.mem, h.traps, h.maps, h.cfg, h.chips⟩
  lines := fun _ h => ⟨h.mem, h.traps, h.maps, h.cfg, h.chips⟩
  read := fun a t h => ⟨(busRead_mem a t).trans h.mem, (busRead_traps a t).trans h.traps, (busRead_maps a t).trans h.maps,
    (busRead_cfg a t).trans h.cfg, ChipsKept.trans h.chips (chipsKept_busRead a t)⟩

theorem SameButFlags.refl (s : State) : SameButFlags s s := ⟨rfl, rfl, rfl, rfl, ChipsKept.refl s⟩

/-- Settles O49: a reading program keeps what reads keep. -/
theorem nonStoringFrame : Obligations.NonStoringFrame := by
  intro i s t hi hexec
  have h := (keptByReads_sameButFlags s).exec hi hexec (SameButFlags.refl s)
  exact ⟨fun a => by rw [h.mem], h.traps, h.maps, h.cfg, h.chips⟩

/-! ### The end of an instruction -/

/-- Settles O18: the boundary decision reads the lines as the last access left them, and the timer chips' part of the
tick changes no setting. -/
theorem finishLeaves : Obligations.FinishLeaves := by
  intro u c
  obtain ⟨h1, h2⟩ := settings_afterCpu (endInstr (u.withCpu c))
  refine ⟨rfl, rfl, rfl, ?_, ?_, ?_, ?_, ?_, h1, h2⟩ <;> simp [finish]

end Sys2Proof.Proofs.Invariant

/-! The registers and the control lines of the timer/IO chip (rules R601 to R604, R607, R610, R650 to R652), bit by bit. -/

namespace Sys2Proof.Proofs.TimerRegisters

open Sys2Proof Sys2Proof.Machine Sys2Proof.Proofs.TimerChip

/-! ### IFR and IER -/

/-- The pin is high where some flag and its enable bit are both set (rule R603). -/
theorem pinLevel_iff (v : Via) :
    v.pinLevel = true ↔ ∃ k : Nat, k < 7 ∧ v.ifr.getLsbD k = true ∧ v.ier.getLsbD k = true := by
  constructor
  · intro h
    by_contra hnone
    have hzero : v.ifr &&& v.ier = 0 := by
      apply BitVec.eq_of_getLsbD_eq
      intro j hj
      rw [BitVec.getLsbD_and, show (0 : BitVec 7).getLsbD j = false from BitVec.getLsbD_zero, Bool.and_eq_false_iff]
      by_contra hboth
      rw [not_or, Bool.not_eq_false, Bool.not_eq_false] at hboth
      exact hnone ⟨j, hj, hboth⟩
    rw [Via.pinLevel, hzero] at h
    exact absurd h (by decide)
  · rintro ⟨j, -, hf, he⟩
    refine bne_iff_ne.mpr (fun hzero => ?_)
    have hbit : (v.ifr &&& v.ier).getLsbD j = true := by rw [BitVec.getLsbD_and, hf, he]; rfl
    rw [hzero] at hbit
    exact absurd hbit (by simp)

theorem getLsbD_append_low (b : BitVec 1) (w : BitVec 7) {j : Nat} (hj : j < 7) : (b ++ w).getLsbD j = w.getLsbD j := by
  rw [BitVec.getLsbD_append, if_pos hj]

theorem getLsbD_append_top (b : BitVec 1) (w : BitVec 7) : (b ++ w).getLsbD 7 = b.getLsbD 0 := by
  rw [BitVec.getLsbD_append, if_neg (by decide)]

/-- Bit 7 of IFR reads as the pin, the others as the flags. -/
theorem readValue_ifr (inp : ChipInputs) (v : Via) : v.readValue inp 13 = BitVec.ofBool v.pinLevel ++ v.ifr := rfl

theorem readValue_ier (inp : ChipInputs) (v : Via) : v.readValue inp 14 = 1#1 ++ v.ier := rfl

/-- A write of IFR clears the bits written 1. -/
theorem ifr_write_ifr (v : Via) (x : Byte) {j : Nat} (hj : j < 7) :
    (v.write 13 x).ifr.getLsbD j = (v.ifr.getLsbD j && !x.getLsbD j) := by
  change (v.ifr &&& ~~~(x.setWidth 7)).getLsbD j = _
  rw [BitVec.getLsbD_and, BitVec.getLsbD_not, BitVec.getLsbD_setWidth, decide_eq_true hj, Bool.true_and, Bool.true_and]

/-- A write of IER sets or clears the bits written 1, by its bit 7 (rule R604). -/
theorem ier_write_ier (v : Via) (x : Byte) {j : Nat} (hj : j < 7) :
    (v.write 14 x).ier.getLsbD j = if x.getLsbD j then x.getLsbD 7 else v.ier.getLsbD j := by
  change (v.writeIer x).ier.getLsbD j = _
  unfold Via.writeIer
  cases h7 : x.getLsbD 7 with
  | true =>
    rw [if_pos rfl, BitVec.getLsbD_or, BitVec.getLsbD_setWidth, decide_eq_true hj, Bool.true_and]
    cases x.getLsbD j <;> simp
  | false =>
    rw [if_neg Bool.false_ne_true, BitVec.getLsbD_and, BitVec.getLsbD_not, BitVec.getLsbD_setWidth, decide_eq_true hj,
      Bool.true_and, Bool.true_and]
    cases x.getLsbD j <;> simp

/-! ### The flag-clearing accesses (rule R607) -/

/-- `w` has the flags of `v` but for those listed. -/
def FlagsOf (v w : Via) (cleared : List Nat) : Prop :=
  ∀ j, j < 7 → w.ifr.getLsbD j = (v.ifr.getLsbD j && !cleared.contains j)

theorem flagsOf_nil {v w : Via} (h : w.ifr = v.ifr) : FlagsOf v w [] := fun j _ => by simp [h]

theorem flagsOf_clearFlag {v w : Via} (n : Nat) (h : w.ifr = (v.clearFlag n).ifr) : FlagsOf v w [n] := by
  intro j hj
  rw [h, flag_clearFlag v n hj]
  simp [eq_comm]

theorem flagsOf_clearTwo {v w : Via} (n m : Nat) (h : w.ifr = ((v.clearFlag n).clearFlag m).ifr) :
    FlagsOf v w [n, m] := by
  intro j hj
  rw [h, flag_clearFlag _ m hj, flag_clearFlag v n hj, Bool.and_assoc]
  simp [eq_comm]

/-- The row of port A: its handshake flag too, unless CA2 is an independent input. -/
theorem flagsOf_clearPortA {v w : Via} (h : w.ifr = v.clearPortA.ifr) :
    FlagsOf v w (if independentInput v.ca2Control then [1] else [1, 0]) := by
  unfold Via.clearPortA at h
  dsimp only at h
  have hctl : (v.clearFlag ifrCA1).ca2Control = v.ca2Control := rfl
  rw [hctl] at h
  split at h
  · rw [if_pos ‹_›]; exact flagsOf_clearFlag ifrCA1 h
  · rw [if_neg ‹_›]; exact flagsOf_clearTwo ifrCA1 ifrCA2 h

/-- The row of port B. -/
theorem flagsOf_clearPortB {v w : Via} (h : w.ifr = v.clearPortB.ifr) :
    FlagsOf v w (if independentInput v.cb2Control then [4] else [4, 3]) := by
  unfold Via.clearPortB at h
  dsimp only at h
  have hctl : (v.clearFlag ifrCB1).cb2Control = v.cb2Control := rfl
  rw [hctl] at h
  split at h
  · rw [if_pos ‹_›]; exact flagsOf_clearFlag ifrCB1 h
  · rw [if_neg ‹_›]; exact flagsOf_clearTwo ifrCB1 ifrCB2 h

/-- The rows of a register's number, one by one. -/
theorem register_cases (r : BitVec 4) :
    r = 0 ∨ r = 1 ∨ r = 2 ∨ r = 3 ∨ r = 4 ∨ r = 5 ∨ r = 6 ∨ r = 7 ∨ r = 8 ∨ r = 9 ∨ r = 10 ∨ r = 11 ∨ r = 12 ∨ r = 13 ∨
      r = 14 ∨ r = 15 := by
  revert r; decide

theorem flagsOf_clearOnRead (v : Via) (r : BitVec 4) : FlagsOf v (v.clearOnRead r) (flagsCleared v false r) := by
  rcases register_cases r with rfl | rfl | rfl | rfl | rfl | rfl | rfl | rfl | rfl | rfl | rfl | rfl | rfl | rfl | rfl | rfl
  · exact flagsOf_clearPortB rfl
  · exact flagsOf_clearPortA rfl
  case inr.inr.inr.inr.inl => exact flagsOf_clearFlag ifrT1 rfl
  case inr.inr.inr.inr.inr.inr.inr.inr.inl => exact flagsOf_clearFlag ifrT2 rfl
  case inr.inr.inr.inr.inr.inr.inr.inr.inr.inr.inl => exact flagsOf_clearFlag ifrSR rfl
  all_goals exact flagsOf_nil rfl

theorem flagsOf_write (v : Via) {r : BitVec 4} (hr : r ≠ 13) (x : Byte) :
    FlagsOf v (v.write r x) (flagsCleared v true r) := by
  rcases register_cases r with rfl | rfl | rfl | rfl | rfl | rfl | rfl | rfl | rfl | rfl | rfl | rfl | rfl | rfl | rfl | rfl
  · exact flagsOf_clearPortB rfl
  · exact flagsOf_clearPortA rfl
  case inr.inr.inr.inr.inr.inl => exact flagsOf_clearFlag ifrT1 rfl
  case inr.inr.inr.inr.inr.inr.inr.inl => exact flagsOf_clearFlag ifrT1 rfl
  case inr.inr.inr.inr.inr.inr.inr.inr.inr.inl => exact flagsOf_clearFlag ifrT2 rfl
  case inr.inr.inr.inr.inr.inr.inr.inr.inr.inr.inl => exact flagsOf_clearFlag ifrSR rfl
  case inr.inr.inr.inr.inr.inr.inr.inr.inr.inr.inr.inr.inr.inl => exact absurd rfl hr
  case inr.inr.inr.inr.inr.inr.inr.inr.inr.inr.inr.inr.inr.inr.inl =>
    refine flagsOf_nil ?_
    change (v.writeIer x).ifr = v.ifr
    unfold Via.writeIer
    split <;> rfl
  all_goals exact flagsOf_nil rfl

/-- A read changes nothing but flags. -/
theorem clearOnRead_eq (v : Via) (r : BitVec 4) : v.clearOnRead r = { v with ifr := (v.clearOnRead r).ifr } := by
  have ha : v.clearPortA = { v with ifr := v.clearPortA.ifr } := by
    unfold Via.clearPortA; dsimp only; split <;> rfl
  have hb : v.clearPortB = { v with ifr := v.clearPortB.ifr } := by
    unfold Via.clearPortB; dsimp only; split <;> rfl
  unfold Via.clearOnRead
  split
  case h_1 => exact hb
  case h_2 => exact ha
  all_goals rfl

/-! ### The ports (rule R610) -/

theorem getLsbD_mux (d src out : Byte) {j : Nat} (hj : j < 8) :
    ((src &&& ~~~d) ||| (out &&& d)).getLsbD j = if d.getLsbD j then out.getLsbD j else src.getLsbD j := by
  rw [BitVec.getLsbD_or, BitVec.getLsbD_and, BitVec.getLsbD_and, BitVec.getLsbD_not, decide_eq_true hj, Bool.true_and]
  cases d.getLsbD j <;> simp

theorem readValue_portA (inp : ChipInputs) (v : Via) {r : BitVec 4} (hr : r = 1 ∨ r = 15) :
    v.readValue inp r = if v.acr.getLsbD 0 then v.ira else v.pinA inp := by
  rcases hr with rfl | rfl <;> rfl

theorem readValue_portB (inp : ChipInputs) (v : Via) :
    v.readValue inp 0 = if v.acr.getLsbD 1 then v.irb else v.pinB inp := rfl

/-! ### The control lines (rules R650 to R652) -/

/-- An edge is active when the level changed and is now the active one. -/
theorem activeEdge_eq (old new rising : Bool) : activeEdge old new rising = (new != old && new == rising) := by
  cases old <;> cases new <;> cases rising <;> rfl

/-- In an input mode, bit 1 of the control field is the active level. -/
theorem inputEdge_eq (ctl : BitVec 3) (old new : Bool) :
    (inputMode ctl && activeEdge old new (risingInput ctl)) = (!ctl.getLsbD 2 && new != old && new == ctl.getLsbD 1) := by
  revert ctl old new; decide

/-- Which control field has the output low. -/
theorem controlOut_ca2 (x : Byte) : controlOut (x.extractLsb' 1 3) = decide (x.toNat / 2 % 8 ≠ 6) := by
  revert x; decide

theorem controlOut_cb2 (x : Byte) : controlOut (x.extractLsb' 5 3) = decide (x.toNat / 32 ≠ 6) := by
  revert x; decide

/-- The whole sampling of the four lines, from the levels remembered before it. -/
structure Sampled (inp : ChipInputs) (v w : Via) (ca1 cb1 ca2 cb2 : Bool) : Prop where
  flagCa1 : w.ifr.getLsbD 1 = (v.ifr.getLsbD 1 || ca1)
  flagCb1 : w.ifr.getLsbD 4 = (v.ifr.getLsbD 4 || cb1)
  flagCa2 : w.ifr.getLsbD 0 = (v.ifr.getLsbD 0 || ca2)
  flagCb2 : w.ifr.getLsbD 3 = (v.ifr.getLsbD 3 || cb2)
  ira : w.ira = if ca1 then v.pinA inp else v.ira
  irb : w.irb = if cb1 then v.pinB inp else v.irb
  lastCa1 : w.lastCa1 = inp.ca1
  lastCb1 : w.lastCb1 = inp.cb1
  lastCa2 : w.lastCa2 = inp.ca2
  lastCb2 : w.lastCb2 = inp.cb2

/-- A flag set on a condition, bit by bit. -/
theorem flag_ite_setFlag (v : Via) (b : Bool) (n : Nat) {j : Nat} (hj : j < 7) :
    (if b then (v.setFlag n).ifr else v.ifr).getLsbD j = (v.ifr.getLsbD j || (b && decide (n = j))) := by
  cases b with
  | true => rw [if_pos rfl, flag_setFlag v n hj, Bool.true_and]
  | false => simp

/-- The sampling of each line as one update of the chip. -/
theorem sampleCa1_eq (inp : ChipInputs) (v : Via) (e : Bool)
    (he : activeEdge v.lastCa1 inp.ca1 (v.pcr.getLsbD 0) = e) :
    v.sampleCa1 inp =
      { v with
        ifr := if e then (v.setFlag ifrCA1).ifr else v.ifr
        ira := if e then v.pinA inp else v.ira
        lastCa1 := inp.ca1 } := by
  unfold Via.sampleCa1
  rw [he]
  cases e <;> rfl

theorem sampleCb1_eq (inp : ChipInputs) (v : Via) (e : Bool)
    (he : activeEdge v.lastCb1 inp.cb1 (v.pcr.getLsbD 4) = e) :
    v.sampleCb1 inp =
      { v with
        ifr := if e then (v.setFlag ifrCB1).ifr else v.ifr
        irb := if e then v.pinB inp else v.irb
        lastCb1 := inp.cb1 } := by
  unfold Via.sampleCb1
  rw [he]
  cases e <;> rfl

theorem sampleCa2_eq (inp : ChipInputs) (v : Via) (e : Bool)
    (he : (inputMode v.ca2Control && activeEdge v.lastCa2 inp.ca2 (risingInput v.ca2Control)) = e) :
    v.sampleCa2 inp = { v with ifr := if e then (v.setFlag ifrCA2).ifr else v.ifr, lastCa2 := inp.ca2 } := by
  unfold Via.sampleCa2
  rw [he]
  cases e <;> rfl

theorem sampleCb2_eq (inp : ChipInputs) (v : Via) (e : Bool)
    (he : (inputMode v.cb2Control && activeEdge v.lastCb2 inp.cb2 (risingInput v.cb2Control)) = e) :
    v.sampleCb2 inp = { v with ifr := if e then (v.setFlag ifrCB2).ifr else v.ifr, lastCb2 := inp.cb2 } := by
  unfold Via.sampleCb2
  rw [he]
  cases e <;> rfl

theorem sampled_controlLinesCycle (inp : ChipInputs) (v : Via) {ca1 cb1 ca2 cb2 : Bool}
    (ha1 : activeEdge v.lastCa1 inp.ca1 (v.pcr.getLsbD 0) = ca1)
    (hb1 : activeEdge v.lastCb1 inp.cb1 (v.pcr.getLsbD 4) = cb1)
    (ha2 : (inputMode v.ca2Control && activeEdge v.lastCa2 inp.ca2 (risingInput v.ca2Control)) = ca2)
    (hb2 : (inputMode v.cb2Control && activeEdge v.lastCb2 inp.cb2 (risingInput v.cb2Control)) = cb2) :
    Sampled inp v (v.controlLinesCycle inp) ca1 cb1 ca2 cb2 := by
  have e1 := sampleCa1_eq inp v ca1 ha1
  have e2 := sampleCb1_eq inp (v.sampleCa1 inp) cb1 (by rw [e1]; exact hb1)
  have e3 := sampleCa2_eq inp ((v.sampleCa1 inp).sampleCb1 inp) ca2 (by rw [e2, e1]; exact ha2)
  have e4 := sampleCb2_eq inp (((v.sampleCa1 inp).sampleCb1 inp).sampleCa2 inp) cb2 (by rw [e3, e2, e1]; exact hb2)
  have hflag : ∀ j, j < 7 → (v.controlLinesCycle inp).ifr.getLsbD j =
      (v.ifr.getLsbD j || (ca1 && decide (ifrCA1 = j)) || (cb1 && decide (ifrCB1 = j)) || (ca2 && decide (ifrCA2 = j)) ||
        (cb2 && decide (ifrCB2 = j))) := by
    intro j hj
    have f1 : (v.sampleCa1 inp).ifr.getLsbD j = (v.ifr.getLsbD j || (ca1 && decide (ifrCA1 = j))) := by
      rw [e1]; exact flag_ite_setFlag v ca1 ifrCA1 hj
    have f2 : ((v.sampleCa1 inp).sampleCb1 inp).ifr.getLsbD j =
        ((v.sampleCa1 inp).ifr.getLsbD j || (cb1 && decide (ifrCB1 = j))) := by
      rw [e2]; exact flag_ite_setFlag _ cb1 ifrCB1 hj
    have f3 : (((v.sampleCa1 inp).sampleCb1 inp).sampleCa2 inp).ifr.getLsbD j =
        (((v.sampleCa1 inp).sampleCb1 inp).ifr.getLsbD j || (ca2 && decide (ifrCA2 = j))) := by
      rw [e3]; exact flag_ite_setFlag _ ca2 ifrCA2 hj
    have f4 : (v.controlLinesCycle inp).ifr.getLsbD j =
        ((((v.sampleCa1 inp).sampleCb1 inp).sampleCa2 inp).ifr.getLsbD j || (cb2 && decide (ifrCB2 = j))) := by
      rw [Via.controlLinesCycle, e4]; exact flag_ite_setFlag _ cb2 ifrCB2 hj
    rw [f4, f3, f2, f1]
  constructor
  case flagCa1 => rw [hflag 1 (by decide)]; simp [ifrCA1, ifrCB1, ifrCA2, ifrCB2]
  case flagCb1 => rw [hflag 4 (by decide)]; simp [ifrCA1, ifrCB1, ifrCA2, ifrCB2]
  case flagCa2 => rw [hflag 0 (by decide)]; simp [ifrCA1, ifrCB1, ifrCA2, ifrCB2]
  case flagCb2 => rw [hflag 3 (by decide)]; simp [ifrCA1, ifrCB1, ifrCA2, ifrCB2]
  all_goals rw [Via.controlLinesCycle, e4, e3, e2, e1]
  all_goals rfl

theorem pins_of_sameLines {v w : Via} (h : SameLines v w) (inp : ChipInputs) :
    w.pinA inp = v.pinA inp ∧ w.pinB inp = v.pinB inp := by
  obtain ⟨ha, hb, hda, hdb⟩ := h.ports
  unfold Via.pinA Via.pinB Via.portSel
  rw [ha, hb, hda, hdb]
  exact ⟨rfl, rfl⟩

/-- Of a whole chip cycle the lines see their own part only. -/
theorem sampled_cycle (inp : ChipInputs) (v : Via) :
    Sampled inp v (v.cycle inp) (inp.ca1 != v.lastCa1 && inp.ca1 == v.pcr.getLsbD 0)
      (inp.cb1 != v.lastCb1 && inp.cb1 == v.pcr.getLsbD 4)
      (!v.pcr.getLsbD 3 && inp.ca2 != v.lastCa2 && inp.ca2 == v.pcr.getLsbD 2)
      (!v.pcr.getLsbD 7 && inp.cb2 != v.lastCb2 && inp.cb2 == v.pcr.getLsbD 6) := by
  have hs : SameLines v v.timer1Cycle.timer2Cycle := (timer1Cycle_same v).2.trans (timer2Cycle_same _).2
  obtain ⟨hpa, hpb⟩ := pins_of_sameLines hs inp
  obtain ⟨hla1, hlb1, hla2, hlb2⟩ := hs.levels
  have h := sampled_controlLinesCycle inp v.timer1Cycle.timer2Cycle (activeEdge_eq _ _ _) (activeEdge_eq _ _ _)
    (inputEdge_eq _ _ _) (inputEdge_eq _ _ _)
  have hca2 : (v.timer1Cycle.timer2Cycle.ca2Control.getLsbD 2 = v.pcr.getLsbD 3) ∧
      v.timer1Cycle.timer2Cycle.ca2Control.getLsbD 1 = v.pcr.getLsbD 2 := by
    rw [Via.ca2Control, hs.pcr]; simp
  have hcb2 : (v.timer1Cycle.timer2Cycle.cb2Control.getLsbD 2 = v.pcr.getLsbD 7) ∧
      v.timer1Cycle.timer2Cycle.cb2Control.getLsbD 1 = v.pcr.getLsbD 6 := by
    rw [Via.cb2Control, hs.pcr]; simp
  rw [hla1, hlb1, hla2, hlb2, hs.pcr, hca2.1, hca2.2, hcb2.1, hcb2.2] at h
  exact
    { flagCa1 := by rw [← hs.flags 1 (by decide)]; exact h.flagCa1
      flagCb1 := by rw [← hs.flags 4 (by decide)]; exact h.flagCb1
      flagCa2 := by rw [← hs.flags 0 (by decide)]; exact h.flagCa2
      flagCb2 := by rw [← hs.flags 3 (by decide)]; exact h.flagCb2
      ira := by rw [← hpa, ← hs.latches.1]; exact h.ira
      irb := by rw [← hpb, ← hs.latches.2]; exact h.irb
      lastCa1 := h.lastCa1, lastCb1 := h.lastCb1, lastCa2 := h.lastCa2, lastCb2 := h.lastCb2 }

/-- Settles O55, clause by clause. -/
theorem timerChipRegistersAndLines : Obligations.TimerChipRegistersAndLines := by
  intro v inp x
  refine ⟨?_, ?_, fun j hj => ⟨?_, ?_, ifr_write_ifr v x hj, ier_write_ier v x hj⟩,
    fun r j hj => ⟨flagsOf_clearOnRead v r j hj, fun hr => flagsOf_write v hr x j hj, clearOnRead_eq v r⟩,
    fun j hj => ⟨getLsbD_mux _ _ _ hj, getLsbD_mux _ _ _ hj⟩, fun r hr => readValue_portA inp v hr,
    readValue_portB inp v, ?_, controlOut_ca2 x, controlOut_cb2 x⟩
  · rw [readValue_ifr, getLsbD_append_top, ← pinLevel_iff]
    cases v.pinLevel <;> simp
  · rw [readValue_ier, getLsbD_append_top]; rfl
  · rw [readValue_ifr, getLsbD_append_low _ _ hj]
  · rw [readValue_ier, getLsbD_append_low _ _ hj]
  · have h := sampled_cycle inp v
    exact ⟨h.flagCa1, h.flagCb1, h.flagCa2, h.flagCb2, h.ira, h.irb, h.lastCa1, h.lastCb1, h.lastCa2, h.lastCb2⟩

end Sys2Proof.Proofs.TimerRegisters

/-! The arithmetic of the CPU in the words of the statements (rules R340 to R344, R380 to R383): what each semantic action
leaves in the registers a program sees. -/

namespace Sys2Proof.Proofs.Alu

open Sys2Proof Sys2Proof.Machine

/-! ### Bits and bytes -/

theorem bottom_bit (v : Byte) : v.getLsbD 0 = decide (v.toNat % 2 = 1) := by
  rw [BitVec.getLsbD, Nat.testBit_zero]

/-- The carry flag as a number, in the statements' words. -/
theorem carry_eq (c : Cpu) : c.carry = c.c.toNat := by
  unfold Cpu.carry
  cases c.c <;> rfl

/-- The value of a signed byte by its top bit. -/
theorem toInt_byte (v : Byte) : v.toInt = (v.toNat : Int) - if 128 ≤ v.toNat then 256 else 0 := by
  rw [BitVec.toInt_eq_toNat_cond]
  split <;> split <;> omega

/-- Overflow of a sum of bytes with a carry: the operands agree in sign and the result does not. -/
theorem overflow_add (a m : Byte) {k : Nat} (hk : k ≤ 1) :
    (~~~(a ^^^ m) &&& (a ^^^ BitVec.ofNat 8 (a.toNat + m.toNat + k))).getLsbD 7 =
      decide (a.toInt + m.toInt + k < -128 ∨ 127 < a.toInt + m.toInt + k) := by
  have ha := a.isLt
  have hm := m.isLt
  rw [BitVec.getLsbD_and, BitVec.getLsbD_not, BitVec.getLsbD_xor, BitVec.getLsbD_xor, top_bit a, top_bit m, top_bit,
    BitVec.toNat_ofNat, toInt_byte, toInt_byte, Bool.eq_iff_iff]
  by_cases hsa : 128 ≤ a.toNat <;> by_cases hsm : 128 ≤ m.toNat <;> simp [hsa, hsm] <;> omega

/-- Overflow of a difference of bytes with a borrow: the operands differ in sign and the result has not the minuend's. -/
theorem overflow_sub (a m : Byte) {k : Nat} (hk : k ≤ 1) :
    ((a ^^^ m) &&& (a ^^^ BitVec.ofInt 8 ((a.toNat : Int) - m.toNat - (1 - k)))).getLsbD 7 =
      decide (a.toInt - m.toInt - (1 - k) < -128 ∨ 127 < a.toInt - m.toInt - (1 - k)) := by
  have ha := a.isLt
  have hm := m.isLt
  rw [BitVec.getLsbD_and, BitVec.getLsbD_xor, BitVec.getLsbD_xor, top_bit a, top_bit m, top_bit, BitVec.toNat_ofInt,
    toInt_byte, toInt_byte, Bool.eq_iff_iff]
  by_cases hsa : 128 ≤ a.toNat <;> by_cases hsm : 128 ≤ m.toNat <;> simp [hsa, hsm] <;> omega

theorem carry_le_one (c : Cpu) : c.c.toNat ≤ 1 := Bool.toNat_le c.c

/-! ### Addition and subtraction, binary -/

/-- The registers after a binary addition, as the statements write them. -/
def binarySum (v : Byte) (k : Nat) (r : Regs) : Regs :=
  let sum : Nat := r.a.toNat + v.toNat + k
  let signed : Int := r.a.toInt + v.toInt + k
  { r with
    a := BitVec.ofNat 8 sum, c := decide (256 ≤ sum)
    v := decide (signed < -128 ∨ 127 < signed) }.setNZ (BitVec.ofNat 8 sum)

/-- The registers after a binary subtraction, as the statements write them. -/
def binaryDifference (v : Byte) (r : Regs) : Regs :=
  let diff : Int := r.a.toNat - v.toNat - (1 - r.c.toNat)
  let signed : Int := r.a.toInt - v.toInt - (1 - r.c.toNat)
  { r with
    a := BitVec.ofInt 8 diff, c := decide (0 ≤ diff)
    v := decide (signed < -128 ∨ 127 < signed) }.setNZ (BitVec.ofInt 8 diff)

theorem regs_adcBinary (v : Byte) (c : Cpu) : (c.adcBinary v).regs = binarySum v c.c.toNat c.regs := by
  unfold Cpu.adcBinary
  dsimp only
  rw [Cpu.loadA_regs, carry_eq, overflow_add _ _ (carry_le_one c)]
  rfl

/-- The absence of a borrow is a difference that is not negative. -/
theorem noBorrow_eq (v : Byte) (c : Cpu) :
    c.noBorrow v = decide (0 ≤ ((c.a.toNat : Int) - v.toNat - (1 - c.c.toNat))) := by
  rw [Cpu.noBorrow, carry_eq, decide_eq_decide]
  omega

theorem regs_sbcBinary (v : Byte) (c : Cpu) : (c.sbcBinary v).regs = binaryDifference v c.regs := by
  unfold Cpu.sbcBinary
  dsimp only
  rw [Cpu.loadA_regs, carry_eq, noBorrow_eq, overflow_sub _ _ (carry_le_one c)]
  rfl

theorem regs_adc_binary {p : BcdPolicy} {v : Byte} {c : Cpu} (hd : c.d = false) :
    (c.adc p v).regs = binarySum v c.c.toNat c.regs := by
  rw [Cpu.adc, if_neg (ne_true_of_eq_false hd), regs_adcBinary]

theorem regs_sbc_binary {p : BcdPolicy} {v : Byte} {c : Cpu} (hd : c.d = false) :
    (c.sbc p v).regs = binaryDifference v c.regs := by
  rw [Cpu.sbc, if_neg (ne_true_of_eq_false hd), regs_sbcBinary]

/-! ### Addition and subtraction, decimal -/

/-- N and V after a decimal operation (rule R342), on the registers. -/
def bcdPolicy (p : BcdPolicy) (r : Regs) : Regs :=
  match p with
  | .clear => { r with n := false, v := false }
  | .preserve => r

theorem regs_bcdNV (p : BcdPolicy) (c : Cpu) : (c.bcdNV p).regs = bcdPolicy p c.regs := by
  cases p <;> rfl

theorem regs_adc_decimal {p : BcdPolicy} {v : Byte} {c : Cpu} (hd : c.d = true) :
    (c.adc p v).regs =
      bcdPolicy p
        { c.regs with
          a := (bcdAdd c.a v c.c.toNat).1, c := (bcdAdd c.a v c.c.toNat).2, z := decide ((bcdAdd c.a v c.c.toNat).1 = 0) } := by
  rw [Cpu.adc, if_pos hd, Cpu.adcDecimal, regs_bcdNV, carry_eq]
  rfl

theorem regs_sbc_decimal {p : BcdPolicy} {v : Byte} {c : Cpu} (hd : c.d = true) :
    (c.sbc p v).regs =
      bcdPolicy p
        { c.regs with
          a := bcdSub c.a v c.c.toNat
          c := decide (0 ≤ ((c.a.toNat : Int) - v.toNat - (1 - c.c.toNat)))
          z := decide (bcdSub c.a v c.c.toNat = 0) } := by
  rw [Cpu.sbc, if_pos hd, Cpu.sbcDecimal, regs_bcdNV, carry_eq, noBorrow_eq]
  rfl

/-- Two digits side by side, the lower one modulo 16. -/
theorem digits_eq (hi lo : Int) :
    (BitVec.ofInt 8 hi <<< 4 ||| (BitVec.ofInt 8 lo &&& 0x0F) : Byte) = BitVec.ofInt 8 (hi * 16 + lo % 16) := by
  apply BitVec.eq_of_toNat_eq
  have hlow : (BitVec.ofInt 8 lo &&& 0x0F : Byte).toNat = (lo % 16).toNat := by
    rw [BitVec.toNat_and, show (0x0F : Byte).toNat = 2 ^ 4 - 1 from rfl, Nat.and_two_pow_sub_one_eq_mod, BitVec.toNat_ofInt]
    omega
  have hhigh : (BitVec.ofInt 8 hi <<< 4 : Byte).toNat = (hi % 16).toNat <<< 4 := by
    rw [BitVec.toNat_shiftLeft, Nat.shiftLeft_eq, Nat.shiftLeft_eq, BitVec.toNat_ofInt]
    omega
  rw [BitVec.toNat_or, hlow, hhigh, ← Nat.shiftLeft_add_eq_or_of_lt (by omega), Nat.shiftLeft_eq, BitVec.toNat_ofInt]
  omega

/-- The digit-adjusted difference in the statements' words. -/
theorem bcdSub_eq (a m : Byte) (k : Nat) :
    bcdSub a m k =
      (let lo0 : Int := (a.toNat % 16 : Nat) - (m.toNat % 16 : Nat) - (1 - k)
        let hi0 : Int := (a.toNat / 16 : Nat) - (m.toNat / 16 : Nat) - (if lo0 < 0 then 1 else 0)
        let lo : Int := if lo0 < 0 then lo0 - 6 else lo0
        let hi : Int := if hi0 < 0 then hi0 - 6 else hi0
        BitVec.ofInt 8 (hi * 16 + lo % 16)) := by
  unfold bcdSub
  dsimp only
  rw [digits_eq]
  split
  · rfl
  · rw [Int.sub_zero]

/-- A byte of two decimal digits. -/
theorem toNat_digits {d1 d0 : Nat} (h1 : d1 < 10) (h0 : d0 < 10) : (BitVec.ofNat 8 (16 * d1 + d0)).toNat = 16 * d1 + d0 := by
  rw [BitVec.toNat_ofNat]
  omega

/-- The digits of a byte of two digits. -/
theorem digits_of_pair {d1 d0 : Nat} (h0 : d0 < 10) : (16 * d1 + d0) % 16 = d0 ∧ (16 * d1 + d0) / 16 = d1 := by omega

/-- The correction of a digit sum is division by ten: its low digit, and its carry to the next digit. -/
theorem corrected_sum {d : Nat} (hd : d ≤ 19) :
    (if d > 9 then d + 6 else d) % 16 = d % 10 ∧ (if (if d > 9 then d + 6 else d) > 15 then 1 else 0) = d / 10 ∧
      ((if d > 9 then d + 6 else d) > 15 ↔ 10 ≤ d) ∧ (if d > 9 then d + 6 else d) ≤ 25 := by
  by_cases h : d > 9
  · rw [if_pos h]
    exact ⟨by omega, by rw [if_pos (by omega)]; omega, by omega, by omega⟩
  · rw [if_neg h]
    exact ⟨by omega, by rw [if_neg (by omega)]; omega, by omega, by omega⟩

/-- The digits of a number below 200 from its units and the rest. -/
theorem decimal_digits {n t l : Nat} (hn : n = 10 * t + l) : n % 10 = l % 10 ∧ n % 100 / 10 = (t + l / 10) % 10 := by omega

theorem toNat_two_digits (h l : Nat) (hl : l < 16) : (h * 16 + l) % 256 = 16 * (h % 16) + l := by omega

theorem pair_mod (h l : Nat) : 16 * (h % 10) + l % 10 = (16 * (h % 10) + l % 10) % 256 := by omega

theorem bcdAdd_digits {a1 a0 b1 b0 k sum : Nat} (ha1 : a1 < 10) (ha0 : a0 < 10) (hb1 : b1 < 10) (hb0 : b0 < 10)
    (hk : k ≤ 1) (hsum : sum = 10 * a1 + a0 + (10 * b1 + b0) + k) :
    bcdAdd (BitVec.ofNat 8 (16 * a1 + a0)) (BitVec.ofNat 8 (16 * b1 + b0)) k =
      (BitVec.ofNat 8 (16 * (sum % 100 / 10) + sum % 10), decide (100 ≤ sum)) := by
  have hu : a0 + b0 + k ≤ 19 := by omega
  have ht : a1 + b1 + (a0 + b0 + k) / 10 ≤ 19 := by omega
  have hover : 10 ≤ a1 + b1 + (a0 + b0 + k) / 10 ↔ 100 ≤ sum := by omega
  obtain ⟨hunits, htens⟩ := decimal_digits (n := sum) (t := a1 + b1) (l := a0 + b0 + k) (by omega)
  have hlt : (a0 + b0 + k) % 10 < 16 := by omega
  obtain ⟨hal, hah⟩ := digits_of_pair (d1 := a1) ha0
  obtain ⟨hbl, hbh⟩ := digits_of_pair (d1 := b1) hb0
  obtain ⟨hlow, hcarry, -, -⟩ := corrected_sum hu
  obtain ⟨hhigh, -, hout, -⟩ := corrected_sum ht
  unfold bcdAdd
  rw [toNat_digits ha1 ha0, toNat_digits hb1 hb0, hal, hah, hbl, hbh]
  dsimp only
  rw [hcarry, hlow, hunits, htens]
  refine Prod.ext (BitVec.eq_of_toNat_eq ?_) (decide_eq_decide.mpr (hout.trans hover))
  dsimp only
  rw [BitVec.toNat_ofNat, BitVec.toNat_ofNat, toNat_two_digits _ _ hlt, hhigh]
  exact pair_mod _ _

/-- The correction of a digit difference: ten is added back where it is negative. -/
theorem corrected_difference {d : Int} (hl : -10 ≤ d) (hh : d ≤ 9) :
    (if d < 0 then d - 6 else d) % 16 = d % 10 := by
  split <;> omega

theorem borrow_eq {d : Int} (hl : -10 ≤ d) (hh : d ≤ 9) : (if d < 0 then (1 : Int) else 0) = -(d / 10) := by
  split <;> omega

/-- The digits of a difference to which 100 was added, from its units and the rest. -/
theorem borrowed_digits {n : Nat} {t l : Int} (hn : (n : Int) = 100 + 10 * t + l) (h0 : 0 ≤ l) (h9 : l < 10) :
    ((n % 10 : Nat) : Int) = l ∧ ((n % 100 / 10 : Nat) : Int) = t % 10 := by omega

theorem toNat_two_int_digits (h l : Int) (h0 : 0 ≤ l) (hl : l < 16) :
    ((h * 16 + l) % ((2 ^ 8 : Nat) : Int)).toNat = (16 * (h % 16) + l).toNat := by omega

/-- The digits of a number below 100, from the integers back. -/
theorem toNat_pair (n : Nat) :
    (16 * ((n % 100 / 10 : Nat) : Int) + ((n % 10 : Nat) : Int)).toNat = (16 * (n % 100 / 10) + n % 10) % 256 := by omega

theorem bcdSub_digits {a1 a0 b1 b0 k diff : Nat} (ha1 : a1 < 10) (ha0 : a0 < 10) (hb1 : b1 < 10) (hb0 : b0 < 10)
    (hk : k ≤ 1) (hdiff : diff = 10 * a1 + a0 + 100 + k - (10 * b1 + b0) - 1) :
    bcdSub (BitVec.ofNat 8 (16 * a1 + a0)) (BitVec.ofNat 8 (16 * b1 + b0)) k =
      BitVec.ofNat 8 (16 * (diff % 100 / 10) + diff % 10) := by
  obtain ⟨u, hu⟩ : ∃ u : Int, (a0 : Int) - b0 - (1 - k) = u := ⟨_, rfl⟩
  have hul : -10 ≤ u := by omega
  have huh : u ≤ 9 := by omega
  have hrem : 0 ≤ u % 10 ∧ u % 10 < 10 := by omega
  obtain ⟨t, ht⟩ : ∃ t : Int, (a1 : Int) - b1 - -(u / 10) = t := ⟨_, rfl⟩
  have htl : -10 ≤ t := by omega
  have hth : t ≤ 9 := by omega
  obtain ⟨hunits, htens⟩ := borrowed_digits (n := diff) (t := t) (l := u % 10) (by omega) hrem.1 hrem.2
  have hlt : u % 10 < 16 := by omega
  obtain ⟨hal, hah⟩ := digits_of_pair (d1 := a1) ha0
  obtain ⟨hbl, hbh⟩ := digits_of_pair (d1 := b1) hb0
  rw [bcdSub_eq, toNat_digits ha1 ha0, toNat_digits hb1 hb0, hal, hah, hbl, hbh]
  dsimp only
  rw [hu, borrow_eq hul huh, ht, corrected_difference hul huh]
  refine BitVec.eq_of_toNat_eq ?_
  rw [BitVec.toNat_ofInt, BitVec.toNat_ofNat, toNat_two_int_digits _ _ hrem.1 hlt, corrected_difference htl hth, ← hunits, ← htens]
  exact toNat_pair diff

theorem bcdNV_a (p : BcdPolicy) (c : Cpu) : (c.bcdNV p).a = c.a := by cases p <;> rfl
theorem bcdNV_c (p : BcdPolicy) (c : Cpu) : (c.bcdNV p).c = c.c := by cases p <;> rfl

/-- Settles O27, from the digit algorithms on bytes of two decimal digits. -/
theorem bcdIsDecimal : Obligations.BcdIsDecimal := by
  intro a1 a0 b1 b0 c m ha1 ha0 hb1 hb0 ha hm x y sum diff
  have hadd : bcdAdd c.a m c.carry = (BitVec.ofNat 8 (16 * (sum % 100 / 10) + sum % 10), decide (100 ≤ sum)) := by
    rw [ha, hm, carry_eq]
    exact bcdAdd_digits ha1 ha0 hb1 hb0 (carry_le_one c) rfl
  have hsub : bcdSub c.a m c.carry = BitVec.ofNat 8 (16 * (diff % 100 / 10) + diff % 10) := by
    rw [ha, hm, carry_eq]
    exact bcdSub_digits ha1 ha0 hb1 hb0 (carry_le_one c) rfl
  have hborrow : c.noBorrow m = decide (100 ≤ diff) := by
    rw [Cpu.noBorrow, ha, hm, carry_eq, toNat_digits ha1 ha0, toNat_digits hb1 hb0, decide_eq_decide]
    have hk := carry_le_one c
    omega
  refine ⟨fun p => ?_, fun p => ?_⟩
  · rw [Cpu.adcDecimal, bcdNV_a, bcdNV_c, hadd]
    exact ⟨rfl, rfl⟩
  · rw [Cpu.sbcDecimal, bcdNV_a, bcdNV_c, hsub, hborrow]
    exact ⟨rfl, rfl⟩

/-! ### Shifts and steps of a byte -/

theorem asl_byte (v : Byte) : v <<< 1 = BitVec.ofNat 8 (2 * v.toNat) := by
  apply BitVec.eq_of_toNat_eq
  rw [BitVec.toNat_shiftLeft, Nat.shiftLeft_eq, BitVec.toNat_ofNat, Nat.mul_comm]

theorem lsr_byte (v : Byte) : v >>> 1 = BitVec.ofNat 8 (v.toNat / 2) := by
  have hv := v.isLt
  apply BitVec.eq_of_toNat_eq
  rw [BitVec.toNat_ushiftRight, Nat.shiftRight_eq_div_pow, BitVec.toNat_ofNat]
  omega

/-- Checked at every byte and carry. -/
theorem rol_byte (v : Byte) (b : Bool) : v <<< 1 ||| (BitVec.ofBool b).setWidth 8 = BitVec.ofNat 8 (2 * v.toNat + b.toNat) := by
  revert v b
  decide

theorem ror_byte (v : Byte) (b : Bool) :
    v >>> 1 ||| (BitVec.ofBool b).setWidth 8 <<< 7 = BitVec.ofNat 8 (v.toNat / 2 + 128 * b.toNat) := by
  revert v b
  decide

theorem inc_byte (v : Byte) : v + 1 = BitVec.ofNat 8 (v.toNat + 1) := by bv_omega

theorem dec_byte (v : Byte) : v - 1 = BitVec.ofNat 8 (v.toNat + 255) := by bv_omega

/-- The byte and the registers each modify function leaves. -/
theorem asl_eq (c : Cpu) (v : Byte) :
    (c.asl v).1 = BitVec.ofNat 8 (2 * v.toNat) ∧
      (c.asl v).2.regs = { c.regs with c := decide (128 ≤ v.toNat) }.setNZ (BitVec.ofNat 8 (2 * v.toNat)) := by
  rw [← asl_byte, ← top_bit]
  exact ⟨rfl, Cpu.setNZ_regs _ _⟩

theorem lsr_eq (c : Cpu) (v : Byte) :
    (c.lsr v).1 = BitVec.ofNat 8 (v.toNat / 2) ∧
      (c.lsr v).2.regs = { c.regs with c := decide (v.toNat % 2 = 1) }.setNZ (BitVec.ofNat 8 (v.toNat / 2)) := by
  rw [← lsr_byte, ← bottom_bit]
  exact ⟨rfl, Cpu.setNZ_regs _ _⟩

theorem rol_eq (c : Cpu) (v : Byte) :
    (c.rol v).1 = BitVec.ofNat 8 (2 * v.toNat + c.c.toNat) ∧
      (c.rol v).2.regs =
        { c.regs with c := decide (128 ≤ v.toNat) }.setNZ (BitVec.ofNat 8 (2 * v.toNat + c.c.toNat)) := by
  rw [← rol_byte, ← top_bit]
  exact ⟨rfl, Cpu.setNZ_regs _ _⟩

theorem ror_eq (c : Cpu) (v : Byte) :
    (c.ror v).1 = BitVec.ofNat 8 (v.toNat / 2 + 128 * c.c.toNat) ∧
      (c.ror v).2.regs =
        { c.regs with c := decide (v.toNat % 2 = 1) }.setNZ (BitVec.ofNat 8 (v.toNat / 2 + 128 * c.c.toNat)) := by
  rw [← ror_byte, ← bottom_bit]
  exact ⟨rfl, Cpu.setNZ_regs _ _⟩

theorem incByte_eq (c : Cpu) (v : Byte) :
    (c.incByte v).1 = BitVec.ofNat 8 (v.toNat + 1) ∧ (c.incByte v).2.regs = c.regs.setNZ (BitVec.ofNat 8 (v.toNat + 1)) := by
  rw [← inc_byte]
  exact ⟨rfl, Cpu.setNZ_regs _ _⟩

theorem decByte_eq (c : Cpu) (v : Byte) :
    (c.decByte v).1 = BitVec.ofNat 8 (v.toNat + 255) ∧
      (c.decByte v).2.regs = c.regs.setNZ (BitVec.ofNat 8 (v.toNat + 255)) := by
  rw [← dec_byte]
  exact ⟨rfl, Cpu.setNZ_regs _ _⟩

end Sys2Proof.Proofs.Alu

/-! What the documented and the undocumented instructions of the read, write, read-modify-write and implied classes
complete with: each is its class (Laws/Complete) with the registers of its semantic action. -/

namespace Sys2Proof.Proofs.Results

open Sys2Proof Sys2Proof.Machine Sys2Proof.Proofs.OpcodeMap Sys2Proof.Proofs.Compare Sys2Proof.Proofs.Alu

/-! ### Operand bytes -/

theorem readBytes_readModeOfLdx (m : LdxMode) : readBytes (readModeOfLdx m) = m.operandBytes := by cases m <;> rfl
theorem readBytes_readModeOfLdy (m : LdyMode) : readBytes (readModeOfLdy m) = m.operandBytes := by cases m <;> rfl
theorem memBytes_memModeOfStore (m : StoreMode) : memBytes (memModeOfStore m) = m.operandBytes := by cases m <;> rfl
theorem memBytes_memModeOfStx (m : StxMode) : memBytes (memModeOfStx m) = m.operandBytes := by cases m <;> rfl
theorem memBytes_memModeOfSty (m : StyMode) : memBytes (memModeOfSty m) = m.operandBytes := by cases m <;> rfl
theorem memBytes_memModeOfBit (m : BitMode) : memBytes (memModeOfBit m) = m.operandBytes := by cases m <;> rfl
theorem memBytes_memModeOfInc (m : IncMode) : memBytes (memModeOfInc m) = m.operandBytes := by cases m <;> rfl
theorem memBytes_memModeOfSax (m : SaxMode) : memBytes (memModeOfSax m) = m.operandBytes := by cases m <;> rfl
theorem memBytes_memModeOfLax (m : LaxMode) : memBytes (memModeOfLax m) = m.operandBytes := by cases m <;> rfl
theorem memBytes_memModeOfSha (m : ShaMode) : memBytes (memModeOfSha m) = m.operandBytes := by cases m <;> rfl

theorem memBytes_memModeOfShift {m : ShiftMode} {mm : MemMode} (h : memModeOfShift m = some mm) :
    memBytes mm = m.operandBytes := by
  cases m <;> cases h <;> rfl

theorem readBytes_readModeOfNop {m : NopMode} {rm : ReadMode} (h : readModeOfNop m = some rm) :
    readBytes rm = m.operandBytes := by
  cases m <;> cases h <;> rfl

/-! ### Loads and stores -/

/-- Settles O19: the operand goes to the register, N and Z follow it. -/
theorem loadsComplete : Obligations.LoadsComplete := by
  intro s
  exact ⟨fun m hp => completesReading_of (act := Cpu.loadA) (exec_eq_runInstr (.lda m) s)
      (readBytes_readModeOfAlu m).symm hp (fun v c _ => Cpu.loadA_regs c v),
    fun m hp => completesReading_of (act := Cpu.loadX) (exec_eq_runInstr (.ldx m) s)
      (readBytes_readModeOfLdx m).symm hp (fun v c _ => Cpu.loadX_regs c v),
    fun m hp => completesReading_of (act := Cpu.loadY) (exec_eq_runInstr (.ldy m) s)
      (readBytes_readModeOfLdy m).symm hp (fun v c _ => Cpu.loadY_regs c v)⟩

/-- A store of a register at the address of its mode. -/
theorem completesStoring_register {i : Instr} {m : MemMode} {value : Cpu → Byte} {byte : Byte} {s : State}
    (hx : exec i s = runInstr i (writeBody m value) s) (hb : i.operandBytes = memBytes m) (hp : s.codePlain m = true)
    (hv : ∀ c : Cpu, c.regs = s.fetched i → value c = byte) :
    CompletesStoring i m (s.operandAddress m) byte (fun r => r) s :=
  completesStoring_of (addr := m.latched) (out := fun c => (value c, c)) hx hb hp
    (fun c hc => ⟨hc.latched, hv c hc.regs, rfl⟩)

/-- Settles O20. -/
theorem storesComplete : Obligations.StoresComplete := by
  intro s
  exact ⟨fun m hp => completesStoring_register (value := fun c => c.a) (exec_eq_runInstr (.sta m) s)
      (memBytes_memModeOfStore m).symm hp (fun _ hc => congrArg Regs.a hc),
    fun m hp => completesStoring_register (value := fun c => c.x) (exec_eq_runInstr (.stx m) s)
      (memBytes_memModeOfStx m).symm hp (fun _ hc => congrArg Regs.x hc),
    fun m hp => completesStoring_register (value := fun c => c.y) (exec_eq_runInstr (.sty m) s)
      (memBytes_memModeOfSty m).symm hp (fun _ hc => congrArg Regs.y hc)⟩

/-! ### Register moves and flags -/

/-- An implied instruction completes with its action, seen on the registers. -/
theorem completesImplied_action {i : Instr} {act : Cpu → Cpu} {eff : Regs → Regs} {s : State}
    (hx : exec i s = runInstr i (impliedBody act) s) (hb : i.operandBytes = 0) (he : ∀ c : Cpu, (act c).regs = eff c.regs) :
    CompletesImplied i eff s :=
  completesImplied_of hx hb (fun c _ => he c)

/-- Settles O21. -/
theorem registerMovesComplete : Obligations.RegisterMovesComplete := by
  intro s
  refine ⟨?_, ?_, ?_, ?_, ?_, ?_, ?_, ?_, ?_, ?_⟩
  · exact completesImplied_action (act := fun c => c.loadX c.a) (exec_eq_runInstr .tax s) rfl (fun c => Cpu.loadX_regs c c.a)
  · exact completesImplied_action (act := fun c => c.loadY c.a) (exec_eq_runInstr .tay s) rfl (fun c => Cpu.loadY_regs c c.a)
  · exact completesImplied_action (act := fun c => c.loadA c.x) (exec_eq_runInstr .txa s) rfl (fun c => Cpu.loadA_regs c c.x)
  · exact completesImplied_action (act := fun c => c.loadA c.y) (exec_eq_runInstr .tya s) rfl (fun c => Cpu.loadA_regs c c.y)
  · exact completesImplied_action (act := fun c => c.loadX c.s) (exec_eq_runInstr .tsx s) rfl (fun c => Cpu.loadX_regs c c.s)
  · exact completesImplied_action (act := fun c => { c with s := c.x }) (exec_eq_runInstr .txs s) rfl (fun _ => rfl)
  · refine completesImplied_action (act := fun c => c.loadX (c.x + 1)) (exec_eq_runInstr .inx s) rfl (fun c => ?_)
    rw [Cpu.loadX_regs, inc_byte]; rfl
  · refine completesImplied_action (act := fun c => c.loadY (c.y + 1)) (exec_eq_runInstr .iny s) rfl (fun c => ?_)
    rw [Cpu.loadY_regs, inc_byte]; rfl
  · refine completesImplied_action (act := fun c => c.loadX (c.x - 1)) (exec_eq_runInstr .dex s) rfl (fun c => ?_)
    rw [Cpu.loadX_regs, dec_byte]; rfl
  · refine completesImplied_action (act := fun c => c.loadY (c.y - 1)) (exec_eq_runInstr .dey s) rfl (fun c => ?_)
    rw [Cpu.loadY_regs, dec_byte]; rfl

/-- Settles O22: each body is the implied class with one flag written, or none. -/
theorem flagInstructionsComplete : Obligations.FlagInstructionsComplete := by
  intro s
  exact ⟨completesImplied_action (act := fun c => { c with c := false }) (exec_eq_runInstr .clc s) rfl (fun _ => rfl),
    completesImplied_action (act := fun c => { c with c := true }) (exec_eq_runInstr .sec s) rfl (fun _ => rfl),
    completesImplied_action (act := fun c => { c with i := false }) (exec_eq_runInstr .cli s) rfl (fun _ => rfl),
    completesImplied_action (act := fun c => { c with i := true }) (exec_eq_runInstr .sei s) rfl (fun _ => rfl),
    completesImplied_action (act := fun c => { c with d := false }) (exec_eq_runInstr .cld s) rfl (fun _ => rfl),
    completesImplied_action (act := fun c => { c with d := true }) (exec_eq_runInstr .sed s) rfl (fun _ => rfl),
    completesImplied_action (act := fun c => { c with v := false }) (exec_eq_runInstr .clv s) rfl (fun _ => rfl),
    completesImplied_action (act := fun c => c) (exec_eq_runInstr .nop s) rfl (fun _ => rfl)⟩

/-! ### Logic, arithmetic and shifts -/

theorem regs_bitTest (v : Byte) (c : Cpu) :
    (c.bitTest v).regs = { c.regs with z := decide (c.a &&& v = 0), n := decide (128 ≤ v.toNat), v := v.getLsbD 6 } := by
  rw [← top_bit, ← beq_zero]; rfl

/-- Settles O23. -/
theorem logicCompletes : Obligations.LogicCompletes := by
  intro s
  refine ⟨fun m hp => ⟨?_, ?_, ?_⟩, fun m hp => ?_⟩
  · exact completesReading_of (act := fun v c => c.loadA (c.a &&& v)) (exec_eq_runInstr (.and m) s)
      (readBytes_readModeOfAlu m).symm hp (fun v c _ => Cpu.loadA_regs c (c.a &&& v))
  · exact completesReading_of (act := fun v c => c.loadA (c.a ||| v)) (exec_eq_runInstr (.ora m) s)
      (readBytes_readModeOfAlu m).symm hp (fun v c _ => Cpu.loadA_regs c (c.a ||| v))
  · exact completesReading_of (act := fun v c => c.loadA (c.a ^^^ v)) (exec_eq_runInstr (.eor m) s)
      (readBytes_readModeOfAlu m).symm hp (fun v c _ => Cpu.loadA_regs c (c.a ^^^ v))
  · exact completesReading_of (act := Cpu.bitTest) (exec_eq_runInstr (.bit m) s) (memBytes_memModeOfBit m).symm hp
      (fun v c _ => regs_bitTest v c)

/-- The opcode fetch and the address cycles leave D as it was. -/
theorem d_of_fetched {s : State} {i : Instr} {c : Cpu} (hc : c.regs = s.fetched i) : c.d = s.cpu.d := congrArg Regs.d hc

theorem c_of_fetched {s : State} {i : Instr} {c : Cpu} (hc : c.regs = s.fetched i) : c.c = s.cpu.c := congrArg Regs.c hc

/-- Settles O25. -/
theorem binaryArithmeticCompletes : Obligations.BinaryArithmeticCompletes := by
  intro s m hp hd
  exact ⟨completesReading_of (act := fun v c => c.adc s.cfg.bcdNV v) (exec_eq_runInstr (.adc m) s)
      (readBytes_readModeOfAlu m).symm hp (fun v c hc => regs_adc_binary ((d_of_fetched hc).trans hd)),
    completesReading_of (act := fun v c => c.sbc s.cfg.bcdNV v) (exec_eq_runInstr (.sbc m) s)
      (readBytes_readModeOfAlu m).symm hp (fun v c hc => regs_sbc_binary ((d_of_fetched hc).trans hd))⟩

/-- Settles O26: the digit algorithms stand in the statement as the model has them, but for the two digits put together. -/
theorem decimalArithmeticCompletes : Obligations.DecimalArithmeticCompletes := by
  intro s m hp hd
  refine ⟨completesReading_of (act := fun v c => c.adc s.cfg.bcdNV v) (exec_eq_runInstr (.adc m) s)
      (readBytes_readModeOfAlu m).symm hp (fun v c hc => regs_adc_decimal ((d_of_fetched hc).trans hd)),
    completesReading_of (act := fun v c => c.sbc s.cfg.bcdNV v) (exec_eq_runInstr (.sbc m) s)
      (readBytes_readModeOfAlu m).symm hp (fun v c hc => ?_)⟩
  rw [regs_sbc_decimal ((d_of_fetched hc).trans hd), bcdSub_eq]
  rfl

/-- Settles O28. -/
theorem incrementsComplete : Obligations.IncrementsComplete := by
  intro s m hp
  exact ⟨completesModifying_of (f := Cpu.incByte) (exec_eq_runInstr (.inc m) s) (memBytes_memModeOfInc m).symm hp
      (fun v c _ => incByte_eq c v),
    completesModifying_of (f := Cpu.decByte) (exec_eq_runInstr (.dec m) s) (memBytes_memModeOfInc m).symm hp
      (fun v c _ => decByte_eq c v)⟩

theorem shiftBody_memory {f : Cpu → Byte → Byte × Cpu} {m : ShiftMode} {mm : MemMode} (h : memModeOfShift m = some mm) :
    shiftBody f m = rmwBody mm f := by
  rw [shiftBody, h]

/-- The accumulator form, as an implied body. -/
theorem completesImplied_accumulator {i : Instr} {f : Cpu → Byte → Byte × Cpu} {r : Byte → Byte} {bit : Byte → Bool}
    {s : State} (hx : exec i s = runInstr i (accBody f) s) (hb : i.operandBytes = 0)
    (he : ∀ (v : Byte) (c : Cpu), c.regs = s.fetched i →
      (f c v).1 = r v ∧ (f c v).2.regs = { c.regs with c := bit v }.setNZ (r v)) :
    CompletesImplied i (fun q => { q with a := r q.a, c := bit q.a }.setNZ (r q.a)) s := by
  refine completesImplied_of (act := fun c => { (f c c.a).2 with a := (f c c.a).1 }) hx hb (fun c hc => ?_)
  obtain ⟨h1, h2⟩ := he c.a c hc
  have hregs : ({ (f c c.a).2 with a := (f c c.a).1 } : Cpu).regs = { (f c c.a).2.regs with a := (f c c.a).1 } := rfl
  rw [hregs, h1, h2]
  rfl

/-- Settles O29. -/
theorem shiftsComplete : Obligations.ShiftsComplete := by
  intro s c asl lsr rol ror top bottom
  have hasl (i : Instr) (v : Byte) (d : Cpu) (_ : d.regs = s.fetched i) := asl_eq d v
  have hlsr (i : Instr) (v : Byte) (d : Cpu) (_ : d.regs = s.fetched i) := lsr_eq d v
  have hrol (i : Instr) (v : Byte) (d : Cpu) (hd : d.regs = s.fetched i) :
      (d.rol v).1 = rol v ∧ (d.rol v).2.regs = { d.regs with c := top v }.setNZ (rol v) := by
    have h := rol_eq d v
    rwa [c_of_fetched hd] at h
  have hror (i : Instr) (v : Byte) (d : Cpu) (hd : d.regs = s.fetched i) :
      (d.ror v).1 = ror v ∧ (d.ror v).2.regs = { d.regs with c := bottom v }.setNZ (ror v) := by
    have h := ror_eq d v
    rwa [c_of_fetched hd] at h
  have hexec {i : Instr} {f : Cpu → Byte → Byte × Cpu} {m : ShiftMode} {mm : MemMode} (hm : memModeOfShift m = some mm)
      (hi : body s.cfg i = shiftBody f m) : exec i s = runInstr i (rmwBody mm f) s := by
    rw [exec_eq_runInstr, hi, shiftBody_memory hm]
  refine ⟨fun m mm hm hp => ⟨?_, ?_, ?_, ?_⟩, ?_, ?_, ?_, ?_⟩
  · exact completesModifying_of (hexec hm rfl) (memBytes_memModeOfShift hm).symm hp (hasl (.asl m))
  · exact completesModifying_of (hexec hm rfl) (memBytes_memModeOfShift hm).symm hp (hlsr (.lsr m))
  · exact completesModifying_of (hexec hm rfl) (memBytes_memModeOfShift hm).symm hp (hrol (.rol m))
  · exact completesModifying_of (hexec hm rfl) (memBytes_memModeOfShift hm).symm hp (hror (.ror m))
  · exact completesImplied_accumulator (f := Cpu.asl) (exec_eq_runInstr (.asl .acc) s) rfl (hasl (.asl .acc))
  · exact completesImplied_accumulator (f := Cpu.lsr) (exec_eq_runInstr (.lsr .acc) s) rfl (hlsr (.lsr .acc))
  · exact completesImplied_accumulator (f := Cpu.rol) (exec_eq_runInstr (.rol .acc) s) rfl (hrol (.rol .acc))
  · exact completesImplied_accumulator (f := Cpu.ror) (exec_eq_runInstr (.ror .acc) s) rfl (hror (.ror .acc))

end Sys2Proof.Proofs.Results

/-! What the undocumented opcodes complete with: under the policy REFERENCE their own program (rules R435 to R454), JAM and the
NOPs under either policy. -/

namespace Sys2Proof.Proofs.Undocumented

open Sys2Proof Sys2Proof.Machine Sys2Proof.Proofs.OpcodeMap Sys2Proof.Proofs.Alu Sys2Proof.Proofs.Results

/-- Under the policy REFERENCE an undocumented opcode runs its own program. -/
theorem exec_reference {i : Instr} {s : State} {reference asNop : List Cycle}
    (hb : body s.cfg i = byPolicy s.cfg i reference asNop) (h : runsAsNop s.cfg i = false) :
    exec i s = runInstr i reference s := by
  rw [exec_eq_runInstr, hb, byPolicy, if_neg (ne_true_of_eq_false h)]

/-- Under the policy NOP it runs its no-op program. -/
theorem exec_asNop {i : Instr} {s : State} {reference asNop : List Cycle}
    (hb : body s.cfg i = byPolicy s.cfg i reference asNop) (h : runsAsNop s.cfg i = true) :
    exec i s = runInstr i asNop s := by
  rw [exec_eq_runInstr, hb, byPolicy, if_pos h]

/-! ### The read class -/

theorem regs_arr (v : Byte) (c : Cpu) :
    (c.arr v).regs =
      (let t : Byte := BitVec.ofNat 8 ((c.a &&& v).toNat / 2 + 128 * c.c.toNat)
       { c.regs with a := t, c := t.getLsbD 6, v := t.getLsbD 6 ^^ t.getLsbD 5 }.setNZ t) := by
  unfold Cpu.arr
  dsimp only
  rw [ror_byte, Cpu.loadA_regs]
  rfl

theorem regs_alr (v : Byte) (c : Cpu) :
    ({ (c.lsr v).2 with a := (c.lsr v).1 } : Cpu).regs =
      { c.regs with a := v >>> 1, c := v.getLsbD 0 }.setNZ (v >>> 1) := by
  have h : (c.lsr v).2.regs = _ := Cpu.setNZ_regs { c with c := v.getLsbD 0 } (v >>> 1)
  have he : ({ (c.lsr v).2 with a := (c.lsr v).1 } : Cpu).regs = { (c.lsr v).2.regs with a := (c.lsr v).1 } := rfl
  rw [he, h]
  rfl

/-- Settles O40. -/
theorem undocumentedReadsComplete : Obligations.UndocumentedReadsComplete := by
  intro s
  refine ⟨fun m hp h => ?_, fun hp h => ?_, fun hp => ⟨fun op h => ?_, fun h => ?_, fun h => ?_, fun h => ?_, fun h => ?_,
    fun h => ?_, fun h hd => ?_⟩⟩
  · exact completesReading_of (act := fun v c => { c with x := v }.loadA v) (exec_reference (i := .lax m) rfl h)
      (memBytes_memModeOfLax m).symm hp (fun v c _ => Cpu.loadA_regs _ v)
  · exact completesReading_of (act := fun v c => { c with x := v &&& c.s, s := v &&& c.s }.loadA (v &&& c.s))
      (exec_reference (i := .las) rfl h) rfl hp (fun v c _ => Cpu.loadA_regs _ (v &&& c.s))
  · exact completesReading_of (act := fun v c => { c with c := (c.a &&& v).getLsbD 7 }.loadA (c.a &&& v))
      (exec_reference (i := .anc op) rfl h) rfl hp (fun v c _ => Cpu.loadA_regs _ (c.a &&& v))
  · exact completesReading_of (act := fun v c => { (c.lsr (c.a &&& v)).2 with a := (c.lsr (c.a &&& v)).1 })
      (exec_reference (i := .alr) rfl h) rfl hp (fun v c _ => regs_alr (c.a &&& v) c)
  · exact completesReading_of (act := Cpu.arr) (exec_reference (i := .arr) rfl h) rfl hp (fun v c _ => regs_arr v c)
  · exact completesReading_of (act := Cpu.sbx) (exec_reference (i := .sbx) rfl h) rfl hp
      (fun v c _ => Cpu.loadX_regs { c with c := decide (v.toNat ≤ (c.a &&& c.x).toNat) } ((c.a &&& c.x) - v))
  · exact completesReading_of (act := fun v c => c.loadA ((c.a ||| s.cfg.aneMagic) &&& c.x &&& v))
      (exec_reference (i := .ane) rfl h) rfl hp (fun v c _ => Cpu.loadA_regs c _)
  · exact completesReading_of
      (act := fun v c => { c with x := (c.a ||| s.cfg.lxaMagic) &&& v }.loadA ((c.a ||| s.cfg.lxaMagic) &&& v))
      (exec_reference (i := .lxa) rfl h) rfl hp (fun v c _ => Cpu.loadA_regs _ _)
  · exact completesReading_of (act := fun v c => c.sbc s.cfg.bcdNV v) (exec_reference (i := .usbc) rfl h) rfl hp
      (fun v c hc => regs_sbc_binary ((d_of_fetched hc).trans hd))

/-! ### The combined read-modify-write class -/

/-- A modify function's flags, then a load of A: N and Z are the load's alone. -/
theorem regs_modify_loadA {c d : Cpu} {r x : Byte} {b : Bool} (h : d.regs = { c.regs with c := b }.setNZ r) :
    (d.loadA x).regs = { c.regs with a := x, c := b }.setNZ x := by
  rw [Cpu.loadA_regs, h]
  rfl

theorem ror_carry (c : Cpu) (v : Byte) : (c.ror v).2.c.toNat = v.toNat % 2 := by
  change (v.getLsbD 0).toNat = _
  rw [bottom_bit]
  rcases Nat.mod_two_eq_zero_or_one v.toNat with h | h <;> rw [h] <;> rfl

/-- A combined opcode under the policy REFERENCE. -/
theorem completesModifying_combined {i : Instr} {m : StoreMode} {f : Cpu → Byte → Byte × Cpu} {value : Byte → Byte}
    {eff : Byte → Regs → Regs} {s : State} (hi : body s.cfg i = combinedBody s.cfg i m f)
    (hb : i.operandBytes = m.operandBytes) (hp : s.codePlain (memModeOfStore m) = true) (h : runsAsNop s.cfg i = false)
    (he : ∀ v c, c.regs = s.fetched i → (f c v).1 = value v ∧ (f c v).2.regs = eff v c.regs) :
    CompletesModifying i (memModeOfStore m) value eff s :=
  completesModifying_of (exec_reference hi h) (hb.trans (memBytes_memModeOfStore m).symm) hp he

/-- Settles O41. -/
theorem combinedModifiesComplete : Obligations.CombinedModifiesComplete := by
  intro s m hp c asl lsr rol ror
  have hrol {i : Instr} {v : Byte} {d : Cpu} (hd : d.regs = s.fetched i) :
      (d.rol v).1 = rol v ∧ (d.rol v).2.regs = { d.regs with c := decide (128 ≤ v.toNat) }.setNZ (rol v) := by
    have h := rol_eq d v
    rwa [c_of_fetched hd] at h
  have hror {i : Instr} {v : Byte} {d : Cpu} (hd : d.regs = s.fetched i) : (d.ror v).1 = ror v := by
    have h := (ror_eq d v).1
    rwa [c_of_fetched hd] at h
  refine ⟨fun h => ?_, fun h => ?_, fun h => ?_, fun h hdec => ?_, fun h => ?_, fun h hdec => ?_⟩
  · refine completesModifying_combined (f := fun d v => ((d.asl v).1, (d.asl v).2.loadA ((d.asl v).2.a ||| (d.asl v).1)))
      rfl rfl hp h (fun v d _ => ?_)
    obtain ⟨h1, h2⟩ := asl_eq d v
    exact ⟨h1, (regs_modify_loadA h2).trans (by rw [h1]; rfl)⟩
  · refine completesModifying_combined (f := fun d v => ((d.rol v).1, (d.rol v).2.loadA ((d.rol v).2.a &&& (d.rol v).1)))
      rfl rfl hp h (fun v d hd => ?_)
    obtain ⟨h1, h2⟩ := hrol (v := v) hd
    exact ⟨h1, (regs_modify_loadA h2).trans (by rw [h1]; rfl)⟩
  · refine completesModifying_combined (f := fun d v => ((d.lsr v).1, (d.lsr v).2.loadA ((d.lsr v).2.a ^^^ (d.lsr v).1)))
      rfl rfl hp h (fun v d _ => ?_)
    obtain ⟨h1, h2⟩ := lsr_eq d v
    exact ⟨h1, (regs_modify_loadA h2).trans (by rw [h1]; rfl)⟩
  · refine completesModifying_combined
      (f := fun d v => ((d.ror v).1, { d with c := (d.ror v).2.c }.adc s.cfg.bcdNV (d.ror v).1)) rfl rfl hp h
      (fun v d hd => ⟨hror hd, ?_⟩)
    dsimp only
    rw [regs_adc_binary (c := { d with c := (d.ror v).2.c }) ((d_of_fetched hd).trans hdec), hror hd, ror_carry]
    rfl
  · exact completesModifying_combined (f := fun d v => (v - 1, d.compare d.a (v - 1))) rfl rfl hp h
      (fun v d _ => ⟨rfl, Cpu.setNZ_regs _ _⟩)
  · exact completesModifying_combined (f := fun d v => (v + 1, d.sbc s.cfg.bcdNV (v + 1))) rfl rfl hp h
      (fun v d hd => ⟨rfl, regs_sbc_binary ((d_of_fetched hd).trans hdec)⟩)

/-- The policy of rule R342 flag by flag. -/
theorem bcdPolicy_eq (p : BcdPolicy) (r : Regs) :
    bcdPolicy p r = { r with n := if p = .clear then false else r.n, v := if p = .clear then false else r.v } := by
  cases p <;> rfl

/-- Settles O42. -/
theorem combinedDecimalCompletes : Obligations.CombinedDecimalCompletes := by
  intro s hd
  refine ⟨fun m hp => ⟨fun h => ?_, fun h => ?_⟩, fun hp h => ?_⟩
  · refine completesModifying_combined
      (f := fun d v => ((d.ror v).1, { d with c := (d.ror v).2.c }.adc s.cfg.bcdNV (d.ror v).1)) rfl rfl hp h
      (fun v c hc => ?_)
    have hval : (c.ror v).1 = BitVec.ofNat 8 (v.toNat / 2 + 128 * s.cpu.c.toNat) := by
      rw [(ror_eq c v).1, c_of_fetched hc]
    refine ⟨hval, ?_⟩
    dsimp only
    rw [regs_adc_decimal (c := { c with c := (c.ror v).2.c }) ((d_of_fetched hc).trans hd), hval, bcdPolicy_eq, ror_carry]
    rfl
  · refine completesModifying_combined (f := fun d v => (v + 1, d.sbc s.cfg.bcdNV (v + 1))) rfl rfl hp h
      (fun v c hc => ⟨rfl, ?_⟩)
    dsimp only
    rw [regs_sbc_decimal ((d_of_fetched hc).trans hd), bcdPolicy_eq]
    rfl
  · refine completesReading_of (act := fun v c => c.sbc s.cfg.bcdNV v) (exec_reference (i := .usbc) rfl h) rfl hp
      (fun v c hc => ?_)
    rw [regs_sbc_decimal ((d_of_fetched hc).trans hd), bcdPolicy_eq]
    rfl

/-! ### The stores -/

/-- H + 1, whether or not the index addition carried. -/
theorem highPlusOne_ready {s : State} {i : Instr} {m : MemMode} {c : Cpu} (h : StoreReady s i m c) (hm : m.carries = true) :
    c.highPlusOne = baseHigh s.peek (s.cpu.pc + 1) m + 1 := by
  unfold Cpu.highPlusOne
  rw [h.cross hm, h.adh hm]
  cases s.crosses m <;> rfl

/-- Where the unstable stores write, from the latches at the store. -/
theorem unstableAddr_ready {s : State} {i : Instr} {m : MemMode} {c : Cpu} (h : StoreReady s i m c)
    (hm : m.carries = true) (v : Byte) : c.unstableAddr v = s.unstableAddress m v := by
  unfold Cpu.unstableAddr State.unstableAddress
  rw [h.cross hm]
  cases hx : s.crosses m with
  | true => rw [if_pos rfl, if_pos rfl, h.adl hm]
  | false =>
    have hz : m.inZeroPage = false := by revert hm; cases m <;> decide
    rw [if_neg Bool.false_ne_true, if_neg Bool.false_ne_true, ← h.latched, MemMode.latched, hz, if_neg Bool.false_ne_true]

/-- An unstable store under the policy REFERENCE. -/
theorem completesStoring_unstable {i : Instr} {m : MemMode} {out : Cpu → Byte × Cpu} {v : Byte} {eff : Regs → Regs}
    {s : State} (hi : body s.cfg i = unstableStore s.cfg i m out) (hb : i.operandBytes = memBytes m)
    (hm : m.carries = true) (hp : s.codePlain m = true) (h : runsAsNop s.cfg i = false)
    (hv : ∀ c : Cpu, c.regs = s.fetched i → c.highPlusOne = baseHigh s.peek (s.cpu.pc + 1) m + 1 →
      (out c).1 = v ∧ (out c).2.regs = eff c.regs) :
    CompletesStoring i m (s.unstableAddress m v) v eff s := by
  refine completesStoring_of (exec_reference hi h) hb hp (fun c hc => ?_)
  obtain ⟨h1, h2⟩ := hv c hc.regs (highPlusOne_ready hc hm)
  exact ⟨by rw [h1]; exact unstableAddr_ready hc hm v, h1, h2⟩

theorem a_of_fetched {s : State} {i : Instr} {c : Cpu} (hc : c.regs = s.fetched i) : c.a = s.cpu.a := congrArg Regs.a hc
theorem x_of_fetched {s : State} {i : Instr} {c : Cpu} (hc : c.regs = s.fetched i) : c.x = s.cpu.x := congrArg Regs.x hc
theorem y_of_fetched {s : State} {i : Instr} {c : Cpu} (hc : c.regs = s.fetched i) : c.y = s.cpu.y := congrArg Regs.y hc

/-- Settles O43. -/
theorem undocumentedStoresComplete : Obligations.UndocumentedStoresComplete := by
  intro s high
  refine ⟨fun m hp h => ?_, fun m hp h => ?_, fun hp h => ?_, fun hp h => ?_, fun hp h => ?_⟩
  · exact completesStoring_register (value := fun c => c.a &&& c.x) (exec_reference (i := .sax m) rfl h)
      (memBytes_memModeOfSax m).symm hp (fun c hc => by rw [a_of_fetched hc, x_of_fetched hc])
  · refine completesStoring_unstable (out := fun c => (c.a &&& c.x &&& c.highPlusOne, c)) rfl
      (memBytes_memModeOfSha m).symm (by cases m <;> rfl) hp h (fun c hc hh => ⟨?_, rfl⟩)
    dsimp only
    rw [a_of_fetched hc, x_of_fetched hc, hh]
  · refine completesStoring_unstable (out := fun c => (c.x &&& c.highPlusOne, c)) rfl rfl rfl hp h
      (fun c hc hh => ⟨?_, rfl⟩)
    dsimp only
    rw [x_of_fetched hc, hh]
  · refine completesStoring_unstable (out := fun c => (c.y &&& c.highPlusOne, c)) rfl rfl rfl hp h
      (fun c hc hh => ⟨?_, rfl⟩)
    dsimp only
    rw [y_of_fetched hc, hh]
  · refine completesStoring_unstable (out := fun c => (c.a &&& c.x &&& c.highPlusOne, { c with s := c.a &&& c.x })) rfl rfl
      rfl hp h (fun c hc hh => ⟨?_, ?_⟩)
    · dsimp only
      rw [a_of_fetched hc, x_of_fetched hc, hh]
    · rw [← a_of_fetched hc, ← x_of_fetched hc]
      rfl

/-! ### JAM and the NOPs -/

theorem nopUndocBody_read {m : NopMode} {rm : ReadMode} (h : readModeOfNop m = some rm) :
    nopUndocBody m = readBody rm (fun _ c => c) := by
  rw [nopUndocBody, h]

/-- Settles O44. -/
theorem undocumentedNopsComplete : Obligations.UndocumentedNopsComplete := by
  intro s op
  refine ⟨completesImplied_action (act := fun c => c) (exec_eq_runInstr (.jam op) s) rfl (fun _ => rfl),
    completesImplied_action (act := fun c => c) (exec_eq_runInstr (.nopUndoc .imp op) s) rfl (fun _ => rfl),
    fun m rm hm hp => ?_⟩
  have hexec : exec (.nopUndoc m op) s = runInstr (.nopUndoc m op) (readBody rm (fun _ c => c)) s := by
    rw [exec_eq_runInstr, ← nopUndocBody_read hm]
    rfl
  exact completesReading_of hexec (readBytes_readModeOfNop hm).symm hp (fun _ _ _ => rfl)

end Sys2Proof.Proofs.Undocumented

/-! Plain memory between ticks (rules R104, R113, R116, R117): no read, and no tick that only reads, changes what it returns; so
the byte an opcode fetch finds there is the byte there now. -/

namespace Sys2Proof.Proofs.PlainMemory

open Sys2Proof Sys2Proof.Machine Sys2Proof.Proofs.Cycles

/-! ### Ticks that only read -/

/-- The two machines have the same memory, address map and parameters: plain memory reads alike. -/
structure SameMemory (s t : State) : Prop where
  mem : t.mem = s.mem
  maps : t.maps = s.maps
  cfg : t.cfg = s.cfg

theorem SameMemory.refl (s : State) : SameMemory s s := ⟨rfl, rfl, rfl⟩

theorem SameMemory.trans {s t u : State} (h : SameMemory s t) (g : SameMemory t u) : SameMemory s u :=
  ⟨g.mem.trans h.mem, g.maps.trans h.maps, g.cfg.trans h.cfg⟩

theorem SameMemory.peek {s t : State} (h : SameMemory s t) {a : Addr} (ha : s.plainAt a = true) : t.peek a = s.peek a :=
  peek_congr ha h.mem h.maps h.cfg

theorem SameMemory.handler {s t : State} (h : SameMemory s t) (a : Addr) : t.handler a = s.handler a :=
  State.handler_congr h.maps h.cfg a

theorem sameMemory_beforeCpu (s : State) : SameMemory s (beforeCpu s) := ⟨by simp, by simp, by simp⟩

theorem sameMemory_afterCpu (s : State) : SameMemory s (afterCpu s) := ⟨by simp, by simp, by simp⟩

theorem sameMemory_busRead (a : Addr) (s : State) : SameMemory s (busRead a s).2 := ⟨by simp, by simp, by simp⟩

theorem sameMemory_readTick (a : Addr) (s : State) : SameMemory s (readTick a s) :=
  ((sameMemory_beforeCpu s).trans (sameMemory_busRead a _)).trans (sameMemory_afterCpu _)

theorem sameMemory_idleTicks (n : Nat) (s : State) : SameMemory s (idleTicks n s) := ⟨by simp, by simp, by simp⟩

theorem sameMemory_afterReads (as : List Addr) (s : State) : SameMemory s (s.afterReads as) := by
  induction as generalizing s with
  | nil => exact SameMemory.refl s
  | cons a as ih => exact (sameMemory_readTick a s).trans (ih (readTick a s))

theorem sameMemory_afterCarry (s : State) (m : MemMode) : SameMemory s (s.afterCarry m) :=
  (sameMemory_idleTicks (1 + addressTicks m) s).trans (sameMemory_readTick _ _)

theorem sameMemory_atOperand (s : State) (m : MemMode) : SameMemory s (s.atOperand m) := by
  unfold State.atOperand
  split
  · exact (sameMemory_afterCarry s m).trans (sameMemory_beforeCpu _)
  · exact (sameMemory_idleTicks _ s).trans (sameMemory_beforeCpu _)

theorem sameMemory_atStore (s : State) (m : MemMode) : SameMemory s (s.atStore m) := by
  unfold State.atStore
  split
  · exact (sameMemory_afterCarry s m).trans (sameMemory_beforeCpu _)
  · exact (sameMemory_idleTicks _ s).trans (sameMemory_beforeCpu _)

theorem peek_readAfter {s : State} {a : Addr} (ha : s.plainAt a = true) (as : List Addr) :
    (s.readAfter as a).1 = s.peek a :=
  ((sameMemory_afterReads as s).trans (sameMemory_beforeCpu _)).peek ha

/-- Settles O17: every tick on the way only reads. -/
theorem plainMemoryReadsAreStable : Obligations.PlainMemoryReadsAreStable := by
  intro s
  exact ⟨fun as _ ha => peek_readAfter ha as,
    fun m ha => ⟨(sameMemory_atOperand s m).peek ha, (sameMemory_atStore s m).peek ha⟩⟩

/-! ### The opcode fetch from plain memory -/

/-- The tick's own part before the CPU leaves the byte at PC and the trap table. -/
theorem fetchedInstr_beforeCpu {s : State} (ha : s.plainAt s.cpu.pc = true) :
    fetchedInstr (beforeCpu s) =
      if (s.trapAt s.cpu.pc).isSome && s.peek s.cpu.pc == s.cfg.trapOpcode then .trap else decodeOpcode (s.peek s.cpu.pc) := by
  have hpeek : (busRead s.cpu.pc (beforeCpu s)).1 = s.peek s.cpu.pc := (sameMemory_beforeCpu s).peek ha
  have htrap : (beforeCpu s).trapAt s.cpu.pc = s.trapAt s.cpu.pc := State.trapAt_congr (beforeCpu_traps s) _
  unfold fetchedInstr
  simp only [beforeCpu_cpu, beforeCpu_cfg, hpeek, htrap]

theorem fetchedInstr_untrapped {s : State} (ha : s.plainAt s.cpu.pc = true)
    (h : s.trapAt s.cpu.pc = none ∨ s.peek s.cpu.pc ≠ s.cfg.trapOpcode) :
    fetchedInstr (beforeCpu s) = decodeOpcode (s.peek s.cpu.pc) := by
  rw [fetchedInstr_beforeCpu ha, if_neg]
  rcases h with h | h
  · rw [h]; exact Bool.false_ne_true
  · rw [beq_eq_false_iff_ne.mpr h, Bool.and_false]; exact Bool.false_ne_true

theorem fetchedInstr_trapped {s : State} (ha : s.plainAt s.cpu.pc = true) (ht : (s.trapAt s.cpu.pc).isSome = true)
    (hb : s.peek s.cpu.pc = s.cfg.trapOpcode) : fetchedInstr (beforeCpu s) = .trap := by
  rw [fetchedInstr_beforeCpu ha, ht, hb, beq_self_eq_true, Bool.and_self, if_pos rfl]

/-- A decoded instruction is the row of its first byte. -/
theorem instr_of_decode {b : Byte} {operands rest : List Byte} {c : Code} (h : decode (b :: operands) = .ok (c, rest)) :
    c.instr = decodeOpcode b := by
  unfold decode at h
  dsimp only at h
  split at h
  · cases h
  · cases h; rfl

/-- Settles O4. -/
theorem stepRunsTheDecodedInstruction : Obligations.StepRunsTheDecodedInstruction := by
  intro s hp hn ha
  refine ⟨fun c operands rest hfree hdec => ?_, fun ht hb => ?_⟩
  · rw [step_ofFetch hp hn, fetchedInstr_untrapped ha hfree, instr_of_decode hdec]
  · rw [step_ofFetch hp hn, fetchedInstr_trapped ha ht hb]

end Sys2Proof.Proofs.PlainMemory

/-! The stack, the branches, the jumps and returns, BRK and TRAP (rules R185 to R189, R456): their programs run cycle by cycle, in
any state. -/

namespace Sys2Proof.Proofs.Control

open Sys2Proof Sys2Proof.Machine Sys2Proof.Proofs.OpcodeMap Sys2Proof.Proofs.ProgramTicks Sys2Proof.Proofs.Interrupts

/-! ### Addresses -/

theorem add_one_one (a : Addr) : a + 1 + 1 = a + 2 := by bv_omega

theorem stackAt_zero (s : State) : s.stackAt 0 = mk16 0x01 s.cpu.s := by
  rw [State.stackAt, show s.cpu.s + 0 = s.cpu.s by bv_omega]

theorem stackAt_two (s : State) : s.stackAt 2 = mk16 0x01 (s.cpu.s + 1 + 1) := by
  rw [State.stackAt, show s.cpu.s + 2 = s.cpu.s + 1 + 1 by bv_omega]

theorem stackAt_three (s : State) : s.stackAt 3 = mk16 0x01 (s.cpu.s + 1 + 1 + 1) := by
  rw [State.stackAt, show s.cpu.s + 3 = s.cpu.s + 1 + 1 + 1 by bv_omega]

theorem stackAt_255 (s : State) : s.stackAt 255 = mk16 0x01 (s.cpu.s - 1) := by
  rw [State.stackAt, show s.cpu.s + 255 = s.cpu.s - 1 by bv_omega]

theorem stackAt_254 (s : State) : s.stackAt 254 = mk16 0x01 (s.cpu.s - 1 - 1) := by
  rw [State.stackAt, show s.cpu.s + 254 = s.cpu.s - 1 - 1 by bv_omega]

/-! ### The run of a body -/

/-- The CPU after the opcode fetch of `i`, at its cycle `t`. -/
def atCycle (t : Nat) (s : State) (i : Instr) : Cpu := { s.cpu.fetchedOpcode s.cfg i with t := t }

theorem atCycle_prog (t : Nat) (s : State) (i : Instr) : (atCycle t s i).prog ≠ .none := progOf_ne_none i

/-- A program after its opcode fetch. -/
theorem exec_of_run {i : Instr} {s u : State} {cs : List Cycle} (hb : body s.cfg i = cs)
    (hrun : runCycles cs ((s.afterReads [s.cpu.pc]).withCpu (atCycle 2 s i)) = u) : exec i s = .next u := by
  rw [exec_eq_runInstr, hb, runInstr, runCycles_fetch, ← hrun]
  rfl

/-- The dummy read at PC that follows the opcode fetch of the stack and return instructions. -/
theorem runCycles_dummyAtPc (i : Instr) (cs : List Cycle) (s : State) :
    runCycles (dummyAtPc :: cs) ((s.afterReads [s.cpu.pc]).withCpu (atCycle 2 s i)) =
      runCycles cs ((s.afterReads [s.cpu.pc, s.cpu.pc + 1]).withCpu (atCycle 3 s i)) :=
  runCycles_read _ _ _ _ _ (atCycle_prog 2 s i)

/-- The two dummy reads before the pulls. -/
theorem runCycles_beforePull (i : Instr) (cs : List Cycle) (s : State) :
    runCycles (dummyAtPc :: dummyStack :: cs) ((s.afterReads [s.cpu.pc]).withCpu (atCycle 2 s i)) =
      runCycles cs ((s.afterReads [s.cpu.pc, s.cpu.pc + 1, s.stackAt 0]).withCpu (atCycle 4 s i)) := by
  rw [runCycles_dummyAtPc, stackAt_zero]
  exact runCycles_read _ _ _ _ _ (atCycle_prog 3 s i)

/-! ### The stack instructions -/

/-- A push instruction: its last cycle writes `value` at S. -/
theorem exec_push {i : Instr} {value : Cpu → Byte} {byte : Byte} {s : State}
    (hb : body s.cfg i = [dummyAtPc, pushCycle endInstr value]) (hv : value (atCycle 3 s i) = byte) :
    exec i s =
      .next (finish (busWrite (s.stackAt 0) byte (beforeCpu (s.afterReads [s.cpu.pc, s.cpu.pc + 1])))
        { atCycle 3 s i with s := s.cpu.s - 1 }) := by
  refine exec_of_run hb ?_
  rw [runCycles_dummyAtPc, pushCycle, runCycles_lastWrite, hv, stackAt_zero]
  rfl

/-- A pull instruction: its last cycle reads at S + 1. -/
theorem exec_pull {i : Instr} {eff : Byte → Cpu → Cpu} {s : State}
    (hb : body s.cfg i = [dummyAtPc, dummyStack, pullCycle endInstr eff]) :
    exec i s =
      .next (finish (s.readAfter [s.cpu.pc, s.cpu.pc + 1, s.stackAt 0] (s.stackAt 1)).2
        (eff (s.readAfter [s.cpu.pc, s.cpu.pc + 1, s.stackAt 0] (s.stackAt 1)).1
          { atCycle 4 s i with s := s.cpu.s + 1 })) := by
  refine exec_of_run hb ?_
  rw [runCycles_beforePull, pullCycle, runCycles_lastRead]
  rfl

/-- The registers of an instruction with no operand byte, S aside. -/
theorem regs_stack {i : Instr} (hb : i.operandBytes = 0) (t : Nat) (x : Byte) (s : State) :
    ({ atCycle t s i with s := x } : Cpu).regs = { s.fetched i with s := x } :=
  congrArg (fun r : Regs => { r with s := x }) (Cpu.fetchedOpcode_regs (s := s) hb)

theorem regs_setP (p : Byte) (c : Cpu) :
    (c.setP p).regs =
      { c.regs with
        n := p.getLsbD 7, v := p.getLsbD 6, d := p.getLsbD 3, i := p.getLsbD 2, z := p.getLsbD 1, c := p.getLsbD 0 } := rfl

theorem regs_pulledA (v : Byte) (c : Cpu) : ({ c with data := v }.loadA v).regs = { c.regs with a := v }.setNZ v :=
  Cpu.loadA_regs { c with data := v } v

theorem regs_pulledP (v : Byte) (c : Cpu) :
    ({ c with data := v }.setP v).regs =
      { c.regs with
        n := v.getLsbD 7, v := v.getLsbD 6, d := v.getLsbD 3, i := v.getLsbD 2, z := v.getLsbD 1, c := v.getLsbD 0 } := rfl

/-- The bits of the status byte (rule R34), checked for every setting of the flags. -/
theorem bits_status : ∀ n v b d i z c : Bool,
    (let p : Byte := BitVec.ofBool n ++ BitVec.ofBool v ++ 1#1 ++ BitVec.ofBool b ++ BitVec.ofBool d ++ BitVec.ofBool i ++
        BitVec.ofBool z ++ BitVec.ofBool c
     p.getLsbD 7 = n ∧ p.getLsbD 6 = v ∧ p.getLsbD 5 = true ∧ p.getLsbD 4 = b ∧ p.getLsbD 3 = d ∧ p.getLsbD 2 = i ∧
       p.getLsbD 1 = z ∧ p.getLsbD 0 = c) := by
  decide

/-- A status byte pulled gives the flags it was made of. -/
theorem regs_setP_pImage (c d : Cpu) (b : Bool) :
    (d.setP (c.pImage b)).regs = { d.regs with n := c.n, v := c.v, d := c.d, i := c.i, z := c.z, c := c.c } := by
  obtain ⟨h7, h6, -, -, h3, h2, h1, h0⟩ := bits_status c.n c.v b c.d c.i c.z c.c
  rw [regs_setP, Cpu.pImage, h7, h6, h3, h2, h1, h0]

/-- Settles O30. -/
theorem stackInstructionsComplete : Obligations.StackInstructionsComplete := by
  refine ⟨fun s => ⟨⟨_, regs_stack rfl 3 _ s, exec_push (value := fun c => c.a) rfl rfl⟩,
    ⟨_, regs_stack rfl 3 _ s, exec_push (value := fun c => c.pImage true) rfl rfl⟩,
    ⟨_, ?_, exec_pull (eff := fun v c => { c with data := v }.loadA v) rfl⟩,
    ⟨_, ?_, exec_pull (eff := fun v c => { c with data := v }.setP v) rfl⟩⟩, fun c d b => ?_⟩
  · exact (regs_pulledA _ _).trans (by rw [regs_stack rfl])
  · exact (regs_pulledP _ _).trans (by rw [regs_stack rfl])
  · obtain ⟨-, -, h5, h4, -⟩ := bits_status c.n c.v b c.d c.i c.z c.c
    exact ⟨h5, h4, regs_setP_pImage c d b⟩

/-! ### The branches -/

/-- The CPU of a branch after its offset byte. -/
def branching (t : Nat) (off : Byte) (s : State) (i : Instr) : Cpu :=
  { atCycle t s i with pc := s.cpu.pc + 2, off := off }

/-- The offset cycle of a branch that goes on. -/
theorem runCycles_branchOffset_taken {cond : Cpu → Bool} {i : Instr} {s : State} (h : cond (atCycle 2 s i) = true)
    (cs : List Cycle) :
    runCycles ((fun s => fetchByte (if cond s.cpu then advance else endInstr) (fun b c => { c with off := b }) s) :: cs)
        ((s.afterReads [s.cpu.pc]).withCpu (atCycle 2 s i)) =
      runCycles cs ((s.afterReads [s.cpu.pc, s.cpu.pc + 1]).withCpu
        (branching 3 (s.readAfter [s.cpu.pc] (s.cpu.pc + 1)).1 s i)) := by
  rw [runCycles_congr (g := fetchByte advance (fun b c => { c with off := b }))
    (by rw [beforeCpu_withCpu, State.withCpu_cpu, h, if_pos rfl]), fetchByte,
    runCycles_read _ _ _ _ _ (atCycle_prog 2 s i), branching, ← add_one_one]
  rfl

/-- The offset cycle of a branch that ends there. -/
theorem runCycles_branchOffset_not {cond : Cpu → Bool} {i : Instr} {s : State} (h : cond (atCycle 2 s i) = false)
    (cs : List Cycle) :
    runCycles ((fun s => fetchByte (if cond s.cpu then advance else endInstr) (fun b c => { c with off := b }) s) :: cs)
        ((s.afterReads [s.cpu.pc]).withCpu (atCycle 2 s i)) =
      finish (s.readAfter [s.cpu.pc] (s.cpu.pc + 1)).2 (branching 2 (s.readAfter [s.cpu.pc] (s.cpu.pc + 1)).1 s i) := by
  rw [runCycles_congr (g := fetchByte endInstr (fun b c => { c with off := b }))
    (by rw [beforeCpu_withCpu, State.withCpu_cpu, h, if_neg Bool.false_ne_true]), fetchByte, runCycles_lastRead, branching,
    ← add_one_one]
  rfl

/-- A branch taken in its page. -/
theorem runCycles_branchTaken_inPage {u : State} {c : Cpu} (h : hiByte c.branchTarget = hiByte c.pc) (cs : List Cycle) :
    runCycles (branchTaken :: cs) (u.withCpu c) =
      finish (busRead c.pc (beforeCpu u)).2 { c with pc := c.branchTarget, ea := c.branchTarget, irqDelay := true } := by
  rw [runCycles_congr (g := readCycle endInstr (fun c => c.pc)
      (fun _ c => { c with pc := c.branchTarget, ea := c.branchTarget, irqDelay := true }))
    (by rw [beforeCpu_withCpu, branchTaken, State.withCpu_cpu, if_pos h]), runCycles_lastRead]

/-- A branch taken across pages: the target's low byte in the old page first. -/
theorem runCycles_branchTaken_across {u : State} {c : Cpu} (hp : c.prog ≠ .none)
    (h : hiByte c.branchTarget ≠ hiByte c.pc) :
    runCycles [branchTaken, readCycle endInstr (fun c => c.pc) (fun _ c => { c with pc := c.ea })] (u.withCpu c) =
      finish (busRead (mk16 (hiByte c.pc) (loByte c.branchTarget)) (beforeCpu (readTick c.pc u))).2
        { c with pc := c.branchTarget, ea := c.branchTarget, t := c.t + 1 } := by
  rw [runCycles_congr (g := readCycle advance (fun c => c.pc)
      (fun _ c => { c with pc := mk16 (hiByte c.pc) (loByte c.branchTarget), ea := c.branchTarget }))
    (by rw [beforeCpu_withCpu, branchTaken, State.withCpu_cpu, if_neg h]), runCycles_read _ _ _ _ _ hp, runCycles_lastRead]

theorem regs_branching {i : Instr} (hb : i.operandBytes = 1) (t : Nat) (off : Byte) (s : State) :
    (branching t off s i).regs = s.fetched i := by
  rw [State.fetched, hb, branching, ← add_one_one]
  rfl

theorem regs_branchedInPage {i : Instr} (hb : i.operandBytes = 1) (t : Nat) (off : Byte) (target : Addr) (s : State) :
    ({ branching t off s i with pc := target, ea := target, irqDelay := true } : Cpu).regs =
      { s.fetched i with pc := target, irqDelay := true } := by
  rw [← regs_branching hb t off s]
  rfl

theorem regs_branchedAcross {i : Instr} (hb : i.operandBytes = 1) (t t' : Nat) (off : Byte) (target : Addr) (s : State) :
    ({ branching t off s i with pc := target, ea := target, t := t' } : Cpu).regs = { s.fetched i with pc := target } := by
  rw [← regs_branching hb t off s]
  rfl

theorem branching_target (t : Nat) (off : Byte) (s : State) (i : Instr) :
    (branching t off s i).branchTarget = s.cpu.pc + 2 + off.signExtend 16 := rfl

theorem branching_pc (t : Nat) (off : Byte) (s : State) (i : Instr) : (branching t off s i).pc = s.cpu.pc + 2 := rfl

/-- The run of a branch taken in its page, from the offset read. -/
theorem exec_branchInPage {i : Instr} {cond : Cpu → Bool} {s : State} {off : Byte} {target : Addr}
    (hbody : body s.cfg i = branchBody cond) (hc : cond (atCycle 2 s i) = true)
    (hoff : (s.readAfter [s.cpu.pc] (s.cpu.pc + 1)).1 = off) (ht : s.cpu.pc + 2 + off.signExtend 16 = target)
    (hpage : hiByte target = hiByte (s.cpu.pc + 2)) :
    exec i s =
      .next (finish (s.readAfter [s.cpu.pc, s.cpu.pc + 1] (s.cpu.pc + 2)).2
        { branching 3 off s i with pc := target, ea := target, irqDelay := true }) := by
  have htarget : (branching 3 off s i).branchTarget = target := (branching_target 3 off s i).trans ht
  refine exec_of_run hbody ?_
  rw [branchBody, runCycles_branchOffset_taken hc, hoff,
    runCycles_branchTaken_inPage (by rw [htarget, branching_pc]; exact hpage), htarget,
    branching_pc]
  rfl

/-- The run of a branch taken across pages. -/
theorem exec_branchAcross {i : Instr} {cond : Cpu → Bool} {s : State} {off : Byte} {target : Addr}
    (hbody : body s.cfg i = branchBody cond) (hc : cond (atCycle 2 s i) = true)
    (hoff : (s.readAfter [s.cpu.pc] (s.cpu.pc + 1)).1 = off) (ht : s.cpu.pc + 2 + off.signExtend 16 = target)
    (hpage : hiByte target ≠ hiByte (s.cpu.pc + 2)) :
    exec i s =
      .next (finish (s.readAfter [s.cpu.pc, s.cpu.pc + 1, s.cpu.pc + 2] (mk16 (hiByte (s.cpu.pc + 2)) (loByte target))).2
        { branching 3 off s i with pc := target, ea := target, t := (branching 3 off s i).t + 1 }) := by
  have htarget : (branching 3 off s i).branchTarget = target := (branching_target 3 off s i).trans ht
  refine exec_of_run hbody ?_
  rw [branchBody, runCycles_branchOffset_taken hc, hoff,
    runCycles_branchTaken_across (c := branching 3 off s i) (atCycle_prog 3 s i) (by rw [htarget, branching_pc]; exact hpage), htarget,
    branching_pc]
  rfl

/-- Every branch, by its condition on the flags the opcode fetch left. -/
theorem completesBranching_of {i : Instr} {cond : Cpu → Bool} {taken : Bool} {s : State}
    (hbody : body s.cfg i = branchBody cond) (hb : i.operandBytes = 1) (hc : cond (atCycle 2 s i) = taken) :
    CompletesBranching i taken s := by
  unfold CompletesBranching
  dsimp only
  generalize hoff : (s.readAfter [s.cpu.pc] (s.cpu.pc + 1)).1 = off
  generalize ht : s.cpu.pc + 2 + off.signExtend 16 = target
  split
  next hnot =>
    exact ⟨_, regs_branching hb 2 _ s, exec_of_run hbody (runCycles_branchOffset_not (hc.trans hnot) _)⟩
  next htaken =>
    have hc' := hc.trans (by simpa using htaken)
    split
    next hpage => exact ⟨_, regs_branchedInPage hb 3 off target s, exec_branchInPage hbody hc' hoff ht hpage⟩
    next hpage => exact ⟨_, regs_branchedAcross hb 3 _ off target s, exec_branchAcross hbody hc' hoff ht hpage⟩

/-- Settles O31: the flags are those of the state, which the opcode fetch leaves. -/
theorem branchesComplete : Obligations.BranchesComplete := by
  intro s
  exact ⟨completesBranching_of (cond := fun c => !c.n) rfl rfl rfl, completesBranching_of (cond := fun c => c.n) rfl rfl rfl,
    completesBranching_of (cond := fun c => !c.v) rfl rfl rfl, completesBranching_of (cond := fun c => c.v) rfl rfl rfl,
    completesBranching_of (cond := fun c => !c.c) rfl rfl rfl, completesBranching_of (cond := fun c => c.c) rfl rfl rfl,
    completesBranching_of (cond := fun c => !c.z) rfl rfl rfl, completesBranching_of (cond := fun c => c.z) rfl rfl rfl⟩

/-! ### Jumps, subroutines and returns -/

/-- The low byte of a jump's operand. -/
theorem runCycles_fetchAdl (i : Instr) (cs : List Cycle) (s : State) :
    runCycles (fetchAdl :: cs) ((s.afterReads [s.cpu.pc]).withCpu (atCycle 2 s i)) =
      runCycles cs ((s.afterReads [s.cpu.pc, s.cpu.pc + 1]).withCpu
        { atCycle 3 s i with pc := s.cpu.pc + 2, adl := (s.readAfter [s.cpu.pc] (s.cpu.pc + 1)).1 }) := by
  rw [fetchAdl, fetchByte, runCycles_read _ _ _ _ _ (atCycle_prog 2 s i), ← add_one_one]
  rfl

/-- Settles O32. -/
theorem jumpsComplete : Obligations.JumpsComplete := by
  intro s pc ll hh lo hi
  refine ⟨⟨{ atCycle 3 s (.jmp .abs) with pc := mk16 hh.1 ll, adl := ll, adh := hh.1 }, rfl,
      exec_of_run (cs := jmpBody .abs) rfl ?_⟩,
    ⟨{ atCycle 5 s (.jmp .ind) with pc := mk16 hi.1 lo, adl := ll, adh := hh.1, data := lo }, rfl,
      exec_of_run (cs := jmpBody .ind) rfl ?_⟩⟩
  · rw [jmpBody, runCycles_fetchAdl, runCycles_lastRead]
    rfl
  · rw [jmpBody, runCycles_fetchAdl, fetchAdh, fetchByte, runCycles_read _ _ _ _ _ (by exact progOf_ne_none (.jmp .ind)),
      runCycles_read _ _ _ _ _ (by exact progOf_ne_none (.jmp .ind)), runCycles_lastRead]
    rfl

/-- Settles O33. -/
theorem subroutinesComplete : Obligations.SubroutinesComplete := by
  intro s pc ll start w hh lo hi last
  refine ⟨⟨{ atCycle 6 s .jsr with pc := mk16 hh.1 ll, adl := ll, adh := hh.1, s := s.cpu.s - 1 - 1 }, ?_,
      exec_of_run (cs := jsrBody) rfl ?_⟩,
    ⟨{ atCycle 6 s .rts with pc := mk16 hi lo + 1, adl := lo, adh := hi, s := s.cpu.s + 1 + 1 }, ?_,
      exec_of_run (cs := rtsBody) rfl ?_⟩⟩
  · rw [show s.cpu.s - 1 - 1 = s.cpu.s - 2 by bv_omega]
    rfl
  · have hw : w = writeTick (mk16 0x01 (s.cpu.s - 1)) (loByte (pc + 2)) (writeTick (mk16 0x01 s.cpu.s) (hiByte (pc + 2))
        (s.afterReads [pc, pc + 1, mk16 0x01 s.cpu.s])) := by
      rw [← stackAt_255, ← stackAt_zero]
    rw [jsrBody, runCycles_fetchAdl, dummyStack, runCycles_read _ _ _ _ _ (by exact progOf_ne_none .jsr), pushPcHigh,
      runCycles_push _ _ _ (by exact progOf_ne_none .jsr), pushPcLow, runCycles_push _ _ _ (by exact progOf_ne_none .jsr),
      runCycles_lastRead]
    have hfin : hh = busRead (pc + 2) (beforeCpu w) := rfl
    rw [hfin, hw]
    rfl
  · rw [show s.cpu.s + 1 + 1 = s.cpu.s + 2 by bv_omega]
    rfl
  · rw [rtsBody, runCycles_beforePull, pullCycle, runCycles_read _ _ _ _ _ (by exact progOf_ne_none .rts), pullCycle,
      runCycles_read _ _ _ _ _ (by exact progOf_ne_none .rts), runCycles_lastRead]
    have hhi : hi = (s.readAfter (start ++ [s.stackAt 1]) (s.stackAt 2)).1 := rfl
    have hlast : last = s.readAfter (start ++ [s.stackAt 1, s.stackAt 2]) (mk16 hi lo) := rfl
    rw [hlast, hhi, stackAt_two]
    rfl

end Sys2Proof.Proofs.Control

/-! BRK, RTI and TRAP, and the return of an RTS to the instruction after its JSR (rules R400 to R403, R456). -/

namespace Sys2Proof.Proofs.Returns

open Sys2Proof Sys2Proof.Machine Sys2Proof.Proofs.OpcodeMap Sys2Proof.Proofs.ProgramTicks Sys2Proof.Proofs.Interrupts
open Sys2Proof.Proofs.RamHandler Sys2Proof.Proofs.PlainMemory Sys2Proof.Proofs.Control

/-! ### BRK and RTI -/

/-- The entry of an instruction through a vector ends with the boundary decision. -/
theorem vectorTicks_endInstr (vector : Addr) (w : State) (c : Cpu) :
    vectorTicks endInstr vector w c =
      finish (busRead (vector + 1) (beforeCpu (afterCpu (busRead vector (beforeCpu w)).2))).2
        (entered (busRead vector (beforeCpu w)).1
          (busRead (vector + 1) (beforeCpu (afterCpu (busRead vector (beforeCpu w)).2))).1 c) := rfl

/-- The three pushes, at their offsets from S. -/
theorem pushTicks_stackAt (b : Bool) {c : Cpu} {s : State} (hs : c.s = s.cpu.s) (u : State) :
    pushTicks b c u =
      writeTick (s.stackAt 254) (c.pImage b)
        (writeTick (s.stackAt 255) (loByte c.pc) (writeTick (s.stackAt 0) (hiByte c.pc) u)) := by
  rw [pushTicks, hs, stackAt_254, stackAt_255, stackAt_zero]

/-- BRK after its second fetch: PC is past the padding byte. -/
def brkEntry (s : State) : Cpu := { atCycle 3 s .brk with pc := s.cpu.pc + 2 }

theorem runCycles_brkBody (s : State) :
    runCycles brkBody ((s.afterReads [s.cpu.pc]).withCpu (atCycle 2 s .brk)) =
      vectorTicks endInstr 0xFFFE (pushTicks true (brkEntry s) (s.afterReads [s.cpu.pc, s.cpu.pc + 1])) (brkEntry s) := by
  rw [brkBody, fetchByte, runCycles_read _ _ _ _ _ (atCycle_prog 2 s .brk),
    runCycles_enterThroughVector _ _ _ _ (by exact progOf_ne_none .brk), brkEntry, ← add_one_one]
  rfl

/-- Settles O35. -/
theorem breakCompletes : Obligations.BreakCompletes := by
  intro s pc u w lo hi
  refine ⟨entered lo.1 hi.1 (brkEntry s), regs_entered lo.1 hi.1 (brkEntry s), exec_of_run (cs := brkBody) rfl ?_⟩
  rw [runCycles_brkBody, pushTicks_stackAt (c := brkEntry s) true rfl, vectorTicks_endInstr]
  rfl

/-- The CPU at the next cycle of its program. -/
def nextCycle (c : Cpu) : Cpu := { c with t := c.t + 1 }

/-- RTI after the status byte `p` was pulled, and after the low byte of PC. -/
def flagsPulled (p : Byte) (s : State) : Cpu := Cpu.setP p { atCycle 5 s .rti with s := s.cpu.s + 1 }
def lowPulled (p lo : Byte) (s : State) : Cpu := { flagsPulled p s with t := 6, adl := lo, s := s.cpu.s + 1 + 1 }

/-- A pull that is not the last cycle of its program. -/
theorem runCycles_pull {eff : Byte → Cpu → Cpu} {cs : List Cycle} {s : State} {as : List Addr} {c d : Cpu}
    (hp : (eff (s.readAfter as (mk16 0x01 (c.s + 1))).1 { c with s := c.s + 1 }).prog ≠ .none)
    (hd : nextCycle (eff (s.readAfter as (mk16 0x01 (c.s + 1))).1 { c with s := c.s + 1 }) = d) :
    runCycles (pullCycle advance eff :: cs) ((s.afterReads as).withCpu c) =
      runCycles cs ((s.afterReads (as ++ [mk16 0x01 (c.s + 1)])).withCpu d) := by
  have hreads : s.afterReads (as ++ [mk16 0x01 (c.s + 1)]) = readTick (mk16 0x01 (c.s + 1)) (s.afterReads as) := by
    rw [State.afterReads, List.foldl_append]
    rfl
  rw [hreads, ← hd]
  exact runCycles_read _ _ _ _ _ hp

/-- Settles O36. -/
theorem returnFromInterruptCompletes : Obligations.ReturnFromInterruptCompletes := by
  intro s pc pulls p lo hi
  have hlo : lo = (s.readAfter (pulls ++ [s.stackAt 1]) (mk16 0x01 (s.cpu.s + 1 + 1))).1 := by rw [← stackAt_two]
  have hhi : hi = s.readAfter (pulls ++ [s.stackAt 1] ++ [mk16 0x01 (s.cpu.s + 1 + 1)])
      (mk16 0x01 (s.cpu.s + 1 + 1 + 1)) := by
    rw [← stackAt_two, ← stackAt_three]
    rfl
  refine ⟨Cpu.jumpHigh hi.1 { lowPulled p lo s with s := s.cpu.s + 1 + 1 + 1 }, ?_, exec_of_run (cs := rtiBody) rfl ?_⟩
  · rw [show s.cpu.s + 1 + 1 + 1 = s.cpu.s + 3 by bv_omega]
    rfl
  · rw [rtiBody, returnFromInterrupt, runCycles_beforePull,
      runCycles_pull (d := flagsPulled p s) (by exact progOf_ne_none .rti) rfl,
      runCycles_pull (d := lowPulled p lo s) (by exact progOf_ne_none .rti) (by rw [hlo]; rfl), pullCycle,
      runCycles_lastRead, hhi]
    rfl

/-! ### TRAP -/

theorem callbackAccess_withCpu (s : State) (c : Cpu) (acc : BusAccess) :
    callbackAccess (s.withCpu c) acc = (callbackAccess s acc).withCpu c := by
  cases acc with
  | read a => exact congrArg Prod.snd (busRead_withCpu a s c)
  | write a v => exact busWrite_withCpu a v s c

/-- The accesses of a callback do not depend on the CPU. -/
theorem foldl_callbackAccess_withCpu (accesses : List BusAccess) (s : State) (c : Cpu) :
    accesses.foldl callbackAccess (s.withCpu c) = (accesses.foldl callbackAccess s).withCpu c := by
  induction accesses generalizing s with
  | nil => rfl
  | cons acc rest ih => rw [List.foldl_cons, callbackAccess_withCpu, ih, List.foldl_cons]

theorem foldl_callbackAccess_inputs (accesses : List BusAccess) (s : State) :
    (accesses.foldl callbackAccess s).inputs = s.inputs := by
  induction accesses generalizing s with
  | nil => rfl
  | cons acc rest ih =>
    rw [List.foldl_cons, ih]
    cases acc with
    | read a => exact busRead_inputs a s
    | write a v => exact busWrite_inputs a v s

/-- The machine after the call of a callback and its bus accesses. -/
def afterCallback (r : TrapRecord) (a : Addr) (s : State) : State :=
  s.inputs.callbackRun.accesses.foldl callbackAccess { s with hostCalls := .trapCallback r.callback a :: s.hostCalls }

theorem afterCallback_inputs (r : TrapRecord) (a : Addr) (s : State) : (afterCallback r a s).inputs = s.inputs :=
  foldl_callbackAccess_inputs _ _

theorem afterCallback_withCpu (r : TrapRecord) (a : Addr) (s : State) (c : Cpu) :
    afterCallback r a (s.withCpu c) = (afterCallback r a s).withCpu c :=
  foldl_callbackAccess_withCpu _ { s with hostCalls := .trapCallback r.callback a :: s.hostCalls } c

/-- The trap action where the trap is still registered: the callback, then PC. -/
theorem trapAction_eq {s : State} {r : TrapRecord} (h : s.trapAt (s.cpu.pc - 1) = some r) :
    trapAction s =
      (afterCallback r (s.cpu.pc - 1) s).withCpu
        { (afterCallback r (s.cpu.pc - 1) s).cpu with
          pc := s.inputs.callbackRun.newPc.getD (afterCallback r (s.cpu.pc - 1) s).cpu.pc } := by
  have hin := afterCallback_inputs r (s.cpu.pc - 1) s
  unfold trapAction
  dsimp only
  rw [h]
  change (match (afterCallback r (s.cpu.pc - 1) s).inputs.callbackRun.newPc with
    | some pc => _
    | none => afterCallback r (s.cpu.pc - 1) s) = _
  rw [hin]
  cases s.inputs.callbackRun.newPc <;> rfl

/-- Settles O46: the trap stays registered through the dummy read, so its callback runs. -/
theorem trapCompletes : Obligations.TrapCompletes := by
  intro s r hr u run called
  have hpc : (atCycle 2 s .trap).pc - 1 = s.cpu.pc := by
    change s.cpu.pc + 1 - 1 = s.cpu.pc
    bv_omega
  have hu : u.traps = s.traps := by
    change (busRead _ (beforeCpu (afterCpu _))).2.traps = _
    simp
  have htrap : u.trapAt ((atCycle 2 s .trap).pc - 1) = some r := by rw [hpc, State.trapAt_congr hu, hr]
  refine ⟨{ atCycle 2 s .trap with pc := run.newPc.getD (s.cpu.pc + 1) }, ?_, exec_of_run (cs := trapBody) rfl ?_⟩
  · have hnop : runsAsNop s.cfg .trap = false := rfl
    simp [Cpu.regs, atCycle, Cpu.fetchedOpcode, hnop, Cpu.incPc]
  · have hact : trapAction (u.withCpu (atCycle 2 s .trap)) =
        (afterCallback r s.cpu.pc u).withCpu { atCycle 2 s .trap with pc := run.newPc.getD (s.cpu.pc + 1) } := by
      rw [trapAction_eq (s := u.withCpu (atCycle 2 s .trap)) htrap, State.withCpu_cpu, hpc, afterCallback_withCpu]
      rfl
    rw [trapBody, runCycles_singleton, tickWith_readCycle]
    exact congrArg (fun t => afterCpu (endInstr t)) hact

/-! ### JSR and RTS together -/

/-- What a writing tick leaves of the address map and the parameters. -/
theorem handler_writeTick (a : Addr) (v : Byte) (u : State) (b : Addr) : (writeTick a v u).handler b = u.handler b :=
  State.handler_congr (by simp [writeTick]) (by simp [writeTick]) b

theorem mem_writeTick (a : Addr) (v : Byte) (u : State) : (writeTick a v u).mem = (busWrite a v (beforeCpu u)).mem :=
  afterCpu_mem _

theorem wf_writeTick {u : State} (hw : u.mem.wf = true) (a : Addr) (v : Byte) : (writeTick a v u).mem.wf = true := by
  rw [mem_writeTick]
  exact busWrite_mem_wf (by rw [beforeCpu_mem]; exact hw) a v

theorem rawRead_writeTick_same {u : State} {a c : Addr} (hw : u.mem.wf = true) (h : u.handler a = .ram c) (v : Byte) :
    rawRead (writeTick a v u).mem c = v := by
  rw [mem_writeTick]
  exact rawRead_busWrite_of_ram (by rw [beforeCpu_mem]; exact hw) (((sameMemory_beforeCpu u).handler a).trans h) v

theorem rawRead_writeTick_other {u : State} {a c d : Addr} (h : u.handler a = .ram c) (v : Byte) (hd : d ≠ c) :
    rawRead (writeTick a v u).mem d = rawRead u.mem d := by
  rw [mem_writeTick, rawRead_busWrite_of_ram_other (((sameMemory_beforeCpu u).handler a).trans h) v hd, beforeCpu_mem]

theorem sameMemory_finish (u : State) (c : Cpu) : SameMemory u (finish u c) := by
  obtain ⟨-, -, -, hmem, -, hmaps, hcfg, -⟩ := Invariant.finishLeaves u c
  exact ⟨hmem, hmaps, hcfg⟩

theorem regs_finish (u : State) (c : Cpu) : (finish u c).cpu.regs = { c.regs with irqDelay := false } :=
  (Invariant.finishLeaves u c).1

theorem regs_of_finish {t u : State} {c : Cpu} (h : t = finish u c) : t.cpu.regs = { c.regs with irqDelay := false } := by
  rw [h, regs_finish]

/-- The two stack bytes of a return address are two cells. -/
theorem stackAt_zero_ne_255 (s : State) : s.stackAt 0 ≠ s.stackAt 255 := by
  intro h
  have hlo := congrArg loByte h
  rw [State.stackAt, State.stackAt, loByte_mk16, loByte_mk16] at hlo
  bv_omega

/-- The return address in the machine after the pushes of a JSR, where the two stack bytes are RAM cells of their own. -/
theorem pushedAddress {s : State} (hw : s.mem.wf = true) (h0 : s.handler (s.stackAt 0) = .ram (s.stackAt 0))
    (h255 : s.handler (s.stackAt 255) = .ram (s.stackAt 255)) (hi lo : Byte) (as : List Addr) :
    let w := writeTick (s.stackAt 255) lo (writeTick (s.stackAt 0) hi (s.afterReads as))
    w.peek (s.stackAt 0) = hi ∧ w.peek (s.stackAt 255) = lo ∧ w.plainAt (s.stackAt 0) = true ∧
      w.plainAt (s.stackAt 255) = true := by
  intro w
  have hreads := sameMemory_afterReads as s
  have hw0 : (s.afterReads as).mem.wf = true := by rw [hreads.mem]; exact hw
  have hw1 : (writeTick (s.stackAt 0) hi (s.afterReads as)).mem.wf = true := wf_writeTick hw0 _ _
  have g0 : (s.afterReads as).handler (s.stackAt 0) = .ram (s.stackAt 0) := (hreads.handler _).trans h0
  have g255 : (writeTick (s.stackAt 0) hi (s.afterReads as)).handler (s.stackAt 255) = .ram (s.stackAt 255) :=
    (handler_writeTick _ _ _ _).trans ((hreads.handler _).trans h255)
  have k0 : w.handler (s.stackAt 0) = .ram (s.stackAt 0) :=
    (handler_writeTick _ _ _ _).trans ((handler_writeTick _ _ _ _).trans g0)
  have k255 : w.handler (s.stackAt 255) = .ram (s.stackAt 255) := (handler_writeTick _ _ _ _).trans g255
  refine ⟨?_, ?_, by rw [State.plainAt, k0]; rfl, by rw [State.plainAt, k255]; rfl⟩
  · rw [peek_of_ram k0, rawRead_writeTick_other g255 _ (stackAt_zero_ne_255 s), rawRead_writeTick_same hw0 g0]
  · rw [peek_of_ram k255, rawRead_writeTick_same hw1 g255]

/-- Settles O34: RTS pulls the two bytes JSR pushed, which stand in RAM. -/
theorem returnAddressIsNextInstruction : Obligations.ReturnAddressIsNextInstruction := by
  intro s t u hw hjsr hrts h0 h255
  obtain ⟨⟨c, hc, hexj⟩, -⟩ := subroutinesComplete s
  have ht := Host.Outcome.next.inj (hjsr.symm.trans hexj)
  obtain ⟨-, d, hd, hexr⟩ := subroutinesComplete t
  have hu := Host.Outcome.next.inj (hrts.symm.trans hexr)
  obtain ⟨p0, p255, q0, q255⟩ := pushedAddress hw h0 h255 (hiByte (s.cpu.pc + 2)) (loByte (s.cpu.pc + 2))
    [s.cpu.pc, s.cpu.pc + 1, s.stackAt 0]
  generalize writeTick (s.stackAt 255) (loByte (s.cpu.pc + 2)) (writeTick (s.stackAt 0) (hiByte (s.cpu.pc + 2))
    (s.afterReads [s.cpu.pc, s.cpu.pc + 1, s.stackAt 0])) = w at ht hc p0 p255 q0 q255
  have hsame : SameMemory w t := by
    rw [ht]
    exact ((sameMemory_beforeCpu w).trans (sameMemory_busRead _ _)).trans (sameMemory_finish _ _)
  have hregs := regs_of_finish ht
  have kregs := regs_of_finish hu
  rw [hc] at hregs
  rw [hd] at kregs
  have hts : t.cpu.s = s.cpu.s - 2 := congrArg Regs.s hregs
  have hus : u.cpu.s = t.cpu.s + 2 := congrArg Regs.s kregs
  have hupc : u.cpu.pc = mk16 (t.readAfter [t.cpu.pc, t.cpu.pc + 1, t.stackAt 0, t.stackAt 1] (t.stackAt 2)).1
      (t.readAfter [t.cpu.pc, t.cpu.pc + 1, t.stackAt 0] (t.stackAt 1)).1 + 1 := congrArg Regs.pc kregs
  have a1 : t.stackAt 1 = s.stackAt 255 := by
    rw [State.stackAt, State.stackAt, hts]
    congr 1
    bv_omega
  have a2 : t.stackAt 2 = s.stackAt 0 := by
    rw [State.stackAt, State.stackAt, hts]
    congr 1
    bv_omega
  have hplain {a : Addr} (h : w.plainAt a = true) : t.plainAt a = true :=
    (State.plainAt_congr hsame.maps hsame.cfg a).trans h
  refine ⟨?_, by rw [hus, hts]; bv_omega⟩
  rw [hupc, a1, a2, peek_readAfter (hplain q255), peek_readAfter (hplain q0), hsame.peek q0, hsame.peek q255, p0, p255,
    mk16_hi_lo]
  bv_omega

end Sys2Proof.Proofs.Returns

/-! Which instructions change a register or a flag (rules R30, R31, R35): a relation between the CPU before and after that lets
an instruction change what the rules list for it and nothing else, respected by every cycle of its program. -/

namespace Sys2Proof.Proofs.Listed

open Sys2Proof Sys2Proof.Machine Sys2Proof.Proofs.OpcodeMap

/-! ### The relation -/

/-- The CPU `d` differs from `c` in the registers and flags listed for the instruction only; PC, the interrupt delay, the
diagnostic count and the latches are free. -/
structure Unlisted (i : Instr) (c d : Cpu) : Prop where
  keepsA : writesA i = false → d.a = c.a
  keepsX : writesX i = false → d.x = c.x
  keepsY : writesY i = false → d.y = c.y
  keepsS : writesS i = false → d.s = c.s
  keepsNZ : writesNZ i = false → d.n = c.n ∧ d.z = c.z
  keepsV : writesV i = false → d.v = c.v
  keepsD : writesD i = false → d.d = c.d
  keepsI : writesI i = false → d.i = c.i
  keepsC : writesC i = false → d.c = c.c

theorem Unlisted.trans {i : Instr} {c d e : Cpu} (h : Unlisted i c d) (g : Unlisted i d e) : Unlisted i c e where
  keepsA w := (g.keepsA w).trans (h.keepsA w)
  keepsX w := (g.keepsX w).trans (h.keepsX w)
  keepsY w := (g.keepsY w).trans (h.keepsY w)
  keepsS w := (g.keepsS w).trans (h.keepsS w)
  keepsNZ w := ⟨(g.keepsNZ w).1.trans (h.keepsNZ w).1, (g.keepsNZ w).2.trans (h.keepsNZ w).2⟩
  keepsV w := (g.keepsV w).trans (h.keepsV w)
  keepsD w := (g.keepsD w).trans (h.keepsD w)
  keepsI w := (g.keepsI w).trans (h.keepsI w)
  keepsC w := (g.keepsC w).trans (h.keepsC w)

/-- The registers and flags the rules list instructions for. -/
def listed (c : Cpu) : (Byte × Byte × Byte × Byte) × Bool × Bool × Bool × Bool × Bool × Bool :=
  ((c.a, c.x, c.y, c.s), c.n, c.z, c.v, c.d, c.i, c.c)

theorem Unlisted.of_listed {i : Instr} {c d : Cpu} (h : listed d = listed c) : Unlisted i c d := by
  simp only [listed, Prod.mk.injEq] at h
  obtain ⟨⟨ha, hx, hy, hs⟩, hn, hz, hv, hd, hi, hc⟩ := h
  exact ⟨fun _ => ha, fun _ => hx, fun _ => hy, fun _ => hs, fun _ => ⟨hn, hz⟩, fun _ => hv, fun _ => hd, fun _ => hi,
    fun _ => hc⟩

theorem Unlisted.refl {i : Instr} (c : Cpu) : Unlisted i c c := .of_listed rfl

theorem listed_fixHigh (c : Cpu) : listed c.fixHigh = listed c := by
  unfold Cpu.fixHigh
  split <;> rfl

/-- What is listed may change. -/
theorem not_unlisted {b : Bool} {p : Prop} (h : b = true) : b = false → p := fun hf => absurd (h.symm.trans hf) Bool.noConfusion

section Writes

variable {i : Instr} (c : Cpu)

theorem Unlisted.setA (h : writesA i = true) (v : Byte) : Unlisted i c { c with a := v } :=
  ⟨not_unlisted h, fun _ => rfl, fun _ => rfl, fun _ => rfl, fun _ => ⟨rfl, rfl⟩, fun _ => rfl, fun _ => rfl, fun _ => rfl,
    fun _ => rfl⟩

theorem Unlisted.setX (h : writesX i = true) (v : Byte) : Unlisted i c { c with x := v } :=
  ⟨fun _ => rfl, not_unlisted h, fun _ => rfl, fun _ => rfl, fun _ => ⟨rfl, rfl⟩, fun _ => rfl, fun _ => rfl, fun _ => rfl,
    fun _ => rfl⟩

theorem Unlisted.setY (h : writesY i = true) (v : Byte) : Unlisted i c { c with y := v } :=
  ⟨fun _ => rfl, fun _ => rfl, not_unlisted h, fun _ => rfl, fun _ => ⟨rfl, rfl⟩, fun _ => rfl, fun _ => rfl, fun _ => rfl,
    fun _ => rfl⟩

theorem Unlisted.setS (h : writesS i = true) (v : Byte) : Unlisted i c { c with s := v } :=
  ⟨fun _ => rfl, fun _ => rfl, fun _ => rfl, not_unlisted h, fun _ => ⟨rfl, rfl⟩, fun _ => rfl, fun _ => rfl, fun _ => rfl,
    fun _ => rfl⟩

theorem Unlisted.flagsNZ (h : writesNZ i = true) (n z : Bool) : Unlisted i c { c with n := n, z := z } :=
  ⟨fun _ => rfl, fun _ => rfl, fun _ => rfl, fun _ => rfl, not_unlisted h, fun _ => rfl, fun _ => rfl, fun _ => rfl,
    fun _ => rfl⟩

theorem Unlisted.flagV (h : writesV i = true) (b : Bool) : Unlisted i c { c with v := b } :=
  ⟨fun _ => rfl, fun _ => rfl, fun _ => rfl, fun _ => rfl, fun _ => ⟨rfl, rfl⟩, not_unlisted h, fun _ => rfl, fun _ => rfl,
    fun _ => rfl⟩

theorem Unlisted.flagD (h : writesD i = true) (b : Bool) : Unlisted i c { c with d := b } :=
  ⟨fun _ => rfl, fun _ => rfl, fun _ => rfl, fun _ => rfl, fun _ => ⟨rfl, rfl⟩, fun _ => rfl, not_unlisted h, fun _ => rfl,
    fun _ => rfl⟩

theorem Unlisted.flagI (h : writesI i = true) (b : Bool) : Unlisted i c { c with i := b } :=
  ⟨fun _ => rfl, fun _ => rfl, fun _ => rfl, fun _ => rfl, fun _ => ⟨rfl, rfl⟩, fun _ => rfl, fun _ => rfl, not_unlisted h,
    fun _ => rfl⟩

theorem Unlisted.flagC (h : writesC i = true) (b : Bool) : Unlisted i c { c with c := b } :=
  ⟨fun _ => rfl, fun _ => rfl, fun _ => rfl, fun _ => rfl, fun _ => ⟨rfl, rfl⟩, fun _ => rfl, fun _ => rfl, fun _ => rfl,
    not_unlisted h⟩

/-! ### The semantic actions -/

theorem Unlisted.setNZ (h : writesNZ i = true) (v : Byte) : Unlisted i c (c.setNZ v) := .flagsNZ c h _ _

theorem Unlisted.loadA (ha : writesA i = true) (h : writesNZ i = true) (v : Byte) : Unlisted i c (c.loadA v) :=
  (Unlisted.setA c ha v).trans (.setNZ _ h v)

theorem Unlisted.loadX (hx : writesX i = true) (h : writesNZ i = true) (v : Byte) : Unlisted i c (c.loadX v) :=
  (Unlisted.setX c hx v).trans (.setNZ _ h v)

theorem Unlisted.loadY (hy : writesY i = true) (h : writesNZ i = true) (v : Byte) : Unlisted i c (c.loadY v) :=
  (Unlisted.setY c hy v).trans (.setNZ _ h v)

/-- A carry out, then N and Z: the shifts and the compares. -/
theorem Unlisted.carryNZ (hc : writesC i = true) (h : writesNZ i = true) (b : Bool) (v : Byte) :
    Unlisted i c ({ c with c := b }.setNZ v) :=
  (Unlisted.flagC c hc b).trans (.setNZ _ h v)

theorem Unlisted.carryLoadA (ha : writesA i = true) (hc : writesC i = true) (h : writesNZ i = true) (b : Bool) (v : Byte) :
    Unlisted i c ({ c with c := b }.loadA v) :=
  (Unlisted.flagC c hc b).trans (.loadA _ ha h v)

/-- Addition and subtraction write A, N, Z, V and C, in both modes. -/
theorem Unlisted.arithmetic (ha : writesA i = true) (h : writesNZ i = true) (hv : writesV i = true) (hc : writesC i = true)
    {d : Cpu} (hx : (d.x, d.y, d.s, d.d, d.i) = (c.x, c.y, c.s, c.d, c.i)) : Unlisted i c d := by
  simp only [Prod.mk.injEq] at hx
  obtain ⟨hx, hy, hs, hd, hi⟩ := hx
  exact ⟨not_unlisted ha, fun _ => hx, fun _ => hy, fun _ => hs, not_unlisted h, not_unlisted hv, fun _ => hd, fun _ => hi,
    not_unlisted hc⟩

theorem Unlisted.adc (ha : writesA i = true) (h : writesNZ i = true) (hv : writesV i = true) (hc : writesC i = true)
    (p : BcdPolicy) (m : Byte) : Unlisted i c (c.adc p m) := by
  refine .arithmetic c ha h hv hc ?_
  unfold Cpu.adc
  split
  · cases p <;> rfl
  · rfl

theorem Unlisted.sbc (ha : writesA i = true) (h : writesNZ i = true) (hv : writesV i = true) (hc : writesC i = true)
    (p : BcdPolicy) (m : Byte) : Unlisted i c (c.sbc p m) := by
  refine .arithmetic c ha h hv hc ?_
  unfold Cpu.sbc
  split
  · cases p <;> rfl
  · rfl

theorem Unlisted.bitTest (h : writesNZ i = true) (hv : writesV i = true) (m : Byte) : Unlisted i c (c.bitTest m) :=
  (Unlisted.flagsNZ c h (m.getLsbD 7) ((c.a &&& m) == 0)).trans (.flagV _ hv (m.getLsbD 6))

theorem Unlisted.setP (h : writesNZ i = true) (hv : writesV i = true) (hd : writesD i = true) (hi : writesI i = true)
    (hc : writesC i = true) (p : Byte) : Unlisted i c (c.setP p) :=
  ⟨fun _ => rfl, fun _ => rfl, fun _ => rfl, fun _ => rfl, not_unlisted h, not_unlisted hv, not_unlisted hd, not_unlisted hi,
    not_unlisted hc⟩

/-! ### Cycles that respect it -/

variable (i) in
/-- The cycle changes no register or flag but those listed for the instruction. -/
def Respects (cyc : Cycle) : Prop := ∀ s, Unlisted i s.cpu (cyc s).cpu

end Writes

section Cycles

variable {i : Instr} {fin : State → State} {addr : Cpu → Addr}

theorem respects_readCycle (hf : ∀ s, listed (fin s).cpu = listed s.cpu) {eff : Byte → Cpu → Cpu}
    (he : ∀ b c, Unlisted i c (eff b c)) : Respects i (readCycle fin addr eff) := by
  intro s
  have h := he (busRead (addr s.cpu) s).1 (busRead (addr s.cpu) s).2.cpu
  rw [busRead_cpu] at h
  refine h.trans (.of_listed ((hf _).trans ?_))
  dsimp only
  rw [busRead_cpu]

theorem respects_writeCycle (hf : ∀ s, listed (fin s).cpu = listed s.cpu) {out : Cpu → Byte × Cpu}
    (ho : ∀ c, Unlisted i c (out c).2) : Respects i (writeCycle fin addr out) :=
  fun s => (ho s.cpu).trans (.of_listed (hf _))

theorem listed_advance (s : State) : listed (advance s).cpu = listed s.cpu := rfl
theorem listed_endInstr (s : State) : listed (endInstr s).cpu = listed s.cpu := rfl

/-- A read whose latch updates touch no listed register. -/
theorem respects_quietRead {eff : Byte → Cpu → Cpu} (he : ∀ b c, listed (eff b c) = listed c) :
    Respects i (readCycle advance addr eff) :=
  respects_readCycle listed_advance (fun b c => .of_listed (he b c))

theorem respects_quietLast {eff : Byte → Cpu → Cpu} (he : ∀ b c, listed (eff b c) = listed c) :
    Respects i (readCycle endInstr addr eff) :=
  respects_readCycle listed_endInstr (fun b c => .of_listed (he b c))

theorem respects_push (hf : ∀ s, listed (fin s).cpu = listed s.cpu) (hs : writesS i = true) (v : Cpu → Byte) :
    Respects i (pushCycle fin v) :=
  respects_writeCycle hf (fun c => .setS c hs _)

theorem respects_pull (hf : ∀ s, listed (fin s).cpu = listed s.cpu) (hs : writesS i = true) {eff : Byte → Cpu → Cpu}
    (he : ∀ b c, Unlisted i c (eff b c)) : Respects i (pullCycle fin eff) :=
  respects_readCycle hf (fun b c => (Unlisted.setS c hs (c.s + 1)).trans (he b _))

theorem respects_fetchCycle (i : Instr) : Respects i (fetchCycle i) := fun s =>
  respects_readCycle (fin := id) (addr := fun c => c.pc) (eff := fun _ c => c.fetchedOpcode s.cfg i) (fun _ => rfl)
    (fun _ _ => .of_listed rfl) s

theorem respects_addressCycles (m : MemMode) : ∀ cyc ∈ addressCycles m, Respects i cyc := by
  have hfetch {eff : Byte → Cpu → Cpu} (he : ∀ b c, listed (eff b c.incPc) = listed c) :
      Respects i (fetchByte advance eff) := respects_quietRead he
  cases m <;> simp only [addressCycles, List.forall_mem_cons]
  case zp => exact ⟨hfetch (fun _ _ => rfl), by simp⟩
  case zpx | zpy => exact ⟨hfetch (fun _ _ => rfl), respects_quietRead (fun _ _ => rfl), by simp⟩
  case abs | absx | absy => exact ⟨hfetch (fun _ _ => rfl), hfetch (fun _ _ => rfl), by simp⟩
  case izx =>
    exact ⟨hfetch (fun _ _ => rfl), respects_quietRead (fun _ _ => rfl), respects_quietRead (fun _ _ => rfl),
      respects_quietRead (fun _ _ => rfl), by simp⟩
  case izy =>
    exact ⟨hfetch (fun _ _ => rfl), respects_quietRead (fun _ _ => rfl), respects_quietRead (fun _ _ => rfl), by simp⟩

theorem respects_carryCycle (m : MemMode) : Respects i (carryCycle m) := respects_quietRead (fun _ => listed_fixHigh)

theorem respects_carryCycles (m : MemMode) : ∀ cyc ∈ carryCycles m, Respects i cyc := by
  intro cyc h
  unfold carryCycles at h
  split at h
  · rw [List.mem_singleton.mp h]; exact respects_carryCycle m
  · exact absurd h List.not_mem_nil

theorem respects_operandCycle (m : MemMode) {act : Byte → Cpu → Cpu} (he : ∀ b c, Unlisted i c (act b c)) :
    Respects i (operandCycle m act) :=
  respects_readCycle listed_endInstr (fun b c =>
    (Unlisted.of_listed (i := i) (c := c) (d := { c with data := b, ea := m.latched c }) rfl).trans (he b _))

/-! ### Bodies that respect it -/

variable (i) in
/-- Every cycle of the body respects the lists. -/
def AllRespect (cs : List Cycle) : Prop := ∀ cyc ∈ cs, Respects i cyc

theorem allRespect_readBody {m : ReadMode} {act : Byte → Cpu → Cpu} (he : ∀ b c, Unlisted i c (act b c)) :
    AllRespect i (readBody m act) := by
  unfold AllRespect
  cases m with
  | imm =>
    simp only [readBody, List.forall_mem_cons]
    exact ⟨respects_readCycle listed_endInstr (fun b c =>
      (Unlisted.of_listed (i := i) (c := c) (d := { c.incPc with data := b }) rfl).trans (he b _)), by simp⟩
  | mem m =>
    simp only [readBody, List.forall_mem_append]
    refine ⟨respects_addressCycles m, ?_⟩
    split <;> simp only [List.forall_mem_cons]
    · refine ⟨fun s => ?_, respects_operandCycle m he, by simp⟩
      unfold uncarriedCycle
      split
      · exact respects_carryCycle m s
      · exact respects_operandCycle m he s
    · exact ⟨respects_operandCycle m he, by simp⟩

theorem allRespect_writeBodyAt {m : MemMode} {out : Cpu → Byte × Cpu} (ho : ∀ c, Unlisted i c (out c).2) :
    AllRespect i (writeBodyAt m addr out) := by
  simp only [AllRespect, writeBodyAt, List.forall_mem_append, List.forall_mem_cons]
  exact ⟨⟨respects_addressCycles m, respects_carryCycles m⟩,
    respects_writeCycle listed_endInstr (fun c => (ho c).trans (.of_listed rfl)), by simp⟩

theorem allRespect_noWriteBody (m : MemMode) : AllRespect i (noWriteBody m) := by
  simp only [AllRespect, noWriteBody, List.forall_mem_append, List.forall_mem_cons]
  exact ⟨⟨respects_addressCycles m, respects_carryCycles m⟩, respects_operandCycle m (fun _ c => .refl c), by simp⟩

theorem allRespect_rmwBody {m : MemMode} {f : Cpu → Byte → Byte × Cpu} (hf : ∀ c v, Unlisted i c (f c v).2) :
    AllRespect i (rmwBody m f) := by
  simp only [AllRespect, rmwBody, List.forall_mem_append, List.forall_mem_cons]
  exact ⟨⟨respects_addressCycles m, respects_carryCycles m⟩, respects_quietRead (fun _ _ => rfl),
    respects_writeCycle listed_advance (fun c => .refl c), respects_writeCycle listed_endInstr (fun c => hf c _), by simp⟩

theorem allRespect_noRmwBody (m : MemMode) : AllRespect i (noRmwBody m) := by
  simp only [AllRespect, noRmwBody, List.forall_mem_append, List.forall_mem_cons]
  exact ⟨⟨respects_addressCycles m, respects_carryCycles m⟩, respects_quietRead (fun _ _ => rfl),
    respects_quietRead (fun _ _ => rfl), respects_operandCycle m (fun _ c => .refl c), by simp⟩

theorem allRespect_impliedBody {act : Cpu → Cpu} (h : ∀ c, Unlisted i c (act c)) : AllRespect i (impliedBody act) := by
  simp only [AllRespect, impliedBody, List.forall_mem_cons]
  exact ⟨respects_readCycle listed_endInstr (fun _ c => h c), by simp⟩

theorem allRespect_byPolicy {k : MachineCfg} {reference asNop : List Cycle} (h : AllRespect i reference)
    (g : AllRespect i asNop) : AllRespect i (byPolicy k i reference asNop) := by
  unfold byPolicy
  split
  · exact g
  · exact h

theorem allRespect_readByPolicy {k : MachineCfg} {m : ReadMode} {act : Byte → Cpu → Cpu}
    (he : ∀ b c, Unlisted i c (act b c)) : AllRespect i (readByPolicy k i m act) :=
  allRespect_byPolicy (allRespect_readBody he) (allRespect_readBody (fun _ c => .refl c))

theorem allRespect_combinedBody {k : MachineCfg} {m : StoreMode} {f : Cpu → Byte → Byte × Cpu}
    (hf : ∀ c v, Unlisted i c (f c v).2) : AllRespect i (combinedBody k i m f) :=
  allRespect_byPolicy (allRespect_rmwBody hf) (allRespect_noRmwBody _)

theorem allRespect_unstableStore {k : MachineCfg} {m : MemMode} {out : Cpu → Byte × Cpu}
    (ho : ∀ c, Unlisted i c (out c).2) : AllRespect i (unstableStore k i m out) :=
  allRespect_byPolicy (allRespect_writeBodyAt ho) (allRespect_noWriteBody m)

theorem allRespect_shiftBody {m : ShiftMode} {f : Cpu → Byte → Byte × Cpu} (hf : ∀ c v, Unlisted i c (f c v).2)
    (ha : m = .acc → writesA i = true) : AllRespect i (shiftBody f m) := by
  cases m
  case acc => exact allRespect_impliedBody (fun c => (hf c c.a).trans (.setA _ (ha rfl) _))
  all_goals exact allRespect_rmwBody hf

theorem allRespect_nopUndocBody (m : NopMode) : AllRespect i (nopUndocBody m) := by
  cases m
  case imp => exact allRespect_impliedBody (fun c => .refl c)
  case imm => exact allRespect_readBody (m := .imm) (act := fun _ c => c) (fun _ c => .refl c)
  all_goals exact allRespect_readBody (m := .mem _) (act := fun _ c => c) (fun _ c => .refl c)

theorem allRespect_branchBody (cond : Cpu → Bool) : AllRespect i (branchBody cond) := by
  simp only [AllRespect, branchBody, List.forall_mem_cons]
  refine ⟨fun s => ?_, fun s => ?_, respects_quietLast (fun _ _ => rfl), by simp⟩
  · dsimp only
    split
    · exact respects_quietRead (addr := fun c => c.pc) (eff := fun b c => { c.incPc with off := b }) (fun _ _ => rfl) s
    · exact respects_quietLast (addr := fun c => c.pc) (eff := fun b c => { c.incPc with off := b }) (fun _ _ => rfl) s
  · unfold branchTaken
    split
    · exact respects_quietLast (addr := fun c => c.pc)
        (eff := fun _ c => { c with pc := c.branchTarget, ea := c.branchTarget, irqDelay := true }) (fun _ _ => rfl) s
    · exact respects_quietRead (addr := fun c => c.pc)
        (eff := fun _ c => { c with pc := mk16 (hiByte c.pc) (loByte c.branchTarget), ea := c.branchTarget })
        (fun _ _ => rfl) s

theorem allRespect_pushBody (hs : writesS i = true) (v : Cpu → Byte) : AllRespect i [dummyAtPc, pushCycle endInstr v] := by
  simp only [AllRespect, List.forall_mem_cons]
  exact ⟨respects_quietRead (fun _ _ => rfl), respects_push listed_endInstr hs v, by simp⟩

theorem allRespect_pullBody (hs : writesS i = true) {eff : Byte → Cpu → Cpu} (he : ∀ b c, Unlisted i c (eff b c)) :
    AllRespect i [dummyAtPc, dummyStack, pullCycle endInstr eff] := by
  simp only [AllRespect, List.forall_mem_cons]
  exact ⟨respects_quietRead (fun _ _ => rfl), respects_quietRead (fun _ _ => rfl), respects_pull listed_endInstr hs he,
    by simp⟩

theorem allRespect_jmpBody (m : JmpMode) : AllRespect i (jmpBody m) := by
  unfold AllRespect
  cases m <;> simp only [jmpBody, List.forall_mem_cons]
  · exact ⟨respects_quietRead (fun _ _ => rfl), respects_quietLast (fun _ _ => rfl), by simp⟩
  · exact ⟨respects_quietRead (fun _ _ => rfl), respects_quietRead (fun _ _ => rfl), respects_quietRead (fun _ _ => rfl),
      respects_quietLast (fun _ _ => rfl), by simp⟩

theorem allRespect_jsrBody (hs : writesS i = true) : AllRespect i jsrBody := by
  simp only [AllRespect, jsrBody, List.forall_mem_cons]
  exact ⟨respects_quietRead (fun _ _ => rfl), respects_quietRead (fun _ _ => rfl), respects_push listed_advance hs _,
    respects_push listed_advance hs _, respects_quietLast (fun _ _ => rfl), by simp⟩

theorem allRespect_rtsBody (hs : writesS i = true) : AllRespect i rtsBody := by
  have hpull {eff : Byte → Cpu → Cpu} (he : ∀ b c, listed (eff b c) = listed c) : Respects i (pullCycle advance eff) :=
    respects_pull listed_advance hs (fun b c => .of_listed (he b c))
  simp only [AllRespect, rtsBody, List.forall_mem_cons]
  exact ⟨respects_quietRead (fun _ _ => rfl), respects_quietRead (fun _ _ => rfl), hpull (fun _ _ => rfl),
    hpull (fun _ _ => rfl), respects_quietLast (fun _ _ => rfl), by simp⟩

theorem allRespect_brkBody (hs : writesS i = true) (hi : writesI i = true) : AllRespect i brkBody := by
  simp only [AllRespect, brkBody, enterThroughVector, List.forall_mem_cons]
  refine ⟨respects_quietRead (fun _ _ => rfl), respects_push listed_advance hs _, respects_push listed_advance hs _,
    respects_push listed_advance hs _, respects_readCycle listed_advance (fun b c => ?_),
    respects_quietLast (fun _ _ => rfl), by simp⟩
  exact (Unlisted.flagI c hi true).trans (.of_listed rfl)

theorem allRespect_rtiBody (hs : writesS i = true) (hp : ∀ p c, Unlisted i c (Cpu.setP p c)) : AllRespect i rtiBody := by
  simp only [AllRespect, rtiBody, returnFromInterrupt, List.forall_mem_cons]
  exact ⟨respects_quietRead (fun _ _ => rfl), respects_quietRead (fun _ _ => rfl), respects_pull listed_advance hs hp,
    respects_pull listed_advance hs (fun _ _ => .of_listed rfl), respects_pull listed_endInstr hs (fun _ _ => .of_listed rfl),
    by simp⟩

/-- A callback moves PC only (rule R456). -/
theorem listed_trapAction (s : State) : listed (trapAction s).cpu = listed s.cpu := by
  cases h : s.trapAt (s.cpu.pc - 1) with
  | none => unfold trapAction; dsimp only; rw [h]
  | some r =>
    rw [Returns.trapAction_eq h]
    have hcpu : (Returns.afterCallback r (s.cpu.pc - 1) s).cpu = s.cpu := by
      have hw := Returns.afterCallback_withCpu r (s.cpu.pc - 1) s s.cpu
      rw [State.withCpu_self] at hw
      rw [hw, State.withCpu_cpu]
    rw [hcpu]
    rfl

theorem allRespect_trapBody : AllRespect i trapBody := by
  simp only [AllRespect, trapBody, List.forall_mem_cons]
  exact ⟨respects_readCycle (fun s => (listed_endInstr _).trans (listed_trapAction s)) (fun _ c => .refl c), by simp⟩

end Cycles

/-! ### Every instruction -/

theorem Unlisted.asl {i : Instr} (hc : writesC i = true) (h : writesNZ i = true) (c : Cpu) (v : Byte) :
    Unlisted i c (c.asl v).2 := .carryNZ c hc h _ _
theorem Unlisted.lsr {i : Instr} (hc : writesC i = true) (h : writesNZ i = true) (c : Cpu) (v : Byte) :
    Unlisted i c (c.lsr v).2 := .carryNZ c hc h _ _
theorem Unlisted.rol {i : Instr} (hc : writesC i = true) (h : writesNZ i = true) (c : Cpu) (v : Byte) :
    Unlisted i c (c.rol v).2 := .carryNZ c hc h _ _
theorem Unlisted.ror {i : Instr} (hc : writesC i = true) (h : writesNZ i = true) (c : Cpu) (v : Byte) :
    Unlisted i c (c.ror v).2 := .carryNZ c hc h _ _

theorem Unlisted.arr {i : Instr} (ha : writesA i = true) (h : writesNZ i = true) (hv : writesV i = true)
    (hc : writesC i = true) (c : Cpu) (m : Byte) : Unlisted i c (c.arr m) :=
  .arithmetic c ha h hv hc rfl

/-- The program of an instruction changes what the rules list for it and nothing else. -/
theorem allRespect_body (k : MachineCfg) : ∀ i : Instr, AllRespect i (body k i)
  | .lda _ => allRespect_readBody (fun v c => .loadA c rfl rfl v)
  | .ldx _ => allRespect_readBody (fun v c => .loadX c rfl rfl v)
  | .ldy _ => allRespect_readBody (fun v c => .loadY c rfl rfl v)
  | .sta _ | .stx _ | .sty _ => allRespect_writeBodyAt (fun c => .refl c)
  | .tax | .tsx | .inx | .dex => allRespect_impliedBody (fun c => .loadX c rfl rfl _)
  | .tay | .iny | .dey => allRespect_impliedBody (fun c => .loadY c rfl rfl _)
  | .txa | .tya => allRespect_impliedBody (fun c => .loadA c rfl rfl _)
  | .txs => allRespect_impliedBody (fun c => .setS c rfl _)
  | .pha | .php => allRespect_pushBody rfl _
  | .pla => allRespect_pullBody rfl (fun v c =>
      (Unlisted.of_listed (c := c) (d := { c with data := v }) rfl).trans (.loadA _ rfl rfl v))
  | .plp => allRespect_pullBody rfl (fun v c =>
      (Unlisted.of_listed (c := c) (d := { c with data := v }) rfl).trans (.setP _ rfl rfl rfl rfl rfl v))
  | .adc _ => allRespect_readBody (fun v c => .adc c rfl rfl rfl rfl _ v)
  | .sbc _ => allRespect_readBody (fun v c => .sbc c rfl rfl rfl rfl _ v)
  | .and _ => allRespect_readBody (act := fun v c => c.loadA (c.a &&& v)) (fun v c => .loadA c rfl rfl _)
  | .ora _ => allRespect_readBody (act := fun v c => c.loadA (c.a ||| v)) (fun v c => .loadA c rfl rfl _)
  | .eor _ => allRespect_readBody (act := fun v c => c.loadA (c.a ^^^ v)) (fun v c => .loadA c rfl rfl _)
  | .cmp _ => allRespect_readBody (act := fun v c => c.compare c.a v) (fun v c => .carryNZ c rfl rfl _ _)
  | .cpx _ => allRespect_readBody (act := fun v c => c.compare c.x v) (fun v c => .carryNZ c rfl rfl _ _)
  | .cpy _ => allRespect_readBody (act := fun v c => c.compare c.y v) (fun v c => .carryNZ c rfl rfl _ _)
  | .bit m => allRespect_readBody (m := .mem (memModeOfBit m)) (fun v c => .bitTest c rfl rfl v)
  | .inc _ | .dec _ => allRespect_rmwBody (fun c v => .setNZ c rfl _)
  | .asl m => allRespect_shiftBody (.asl rfl rfl) (fun h => by rw [h]; rfl)
  | .lsr m => allRespect_shiftBody (.lsr rfl rfl) (fun h => by rw [h]; rfl)
  | .rol m => allRespect_shiftBody (.rol rfl rfl) (fun h => by rw [h]; rfl)
  | .ror m => allRespect_shiftBody (.ror rfl rfl) (fun h => by rw [h]; rfl)
  | .bpl => allRespect_branchBody (fun c => !c.n)
  | .bvc => allRespect_branchBody (fun c => !c.v)
  | .bcc => allRespect_branchBody (fun c => !c.c)
  | .bne => allRespect_branchBody (fun c => !c.z)
  | .bmi | .bvs | .bcs | .beq => allRespect_branchBody _
  | .jmp m => allRespect_jmpBody m
  | .jsr => allRespect_jsrBody rfl
  | .rts => allRespect_rtsBody rfl
  | .brk => allRespect_brkBody rfl rfl
  | .rti => allRespect_rtiBody rfl (fun p c => .setP c rfl rfl rfl rfl rfl p)
  | .clc | .sec => allRespect_impliedBody (fun c => .flagC c rfl _)
  | .cli | .sei => allRespect_impliedBody (fun c => .flagI c rfl _)
  | .cld | .sed => allRespect_impliedBody (fun c => .flagD c rfl _)
  | .clv => allRespect_impliedBody (fun c => .flagV c rfl _)
  | .nop | .jam _ => allRespect_impliedBody (fun c => .refl c)
  | .nopUndoc m _ => allRespect_nopUndocBody m
  | .slo _ => allRespect_combinedBody (fun c v => (Unlisted.asl rfl rfl c v).trans (.loadA _ rfl rfl _))
  | .rla _ => allRespect_combinedBody (fun c v => (Unlisted.rol rfl rfl c v).trans (.loadA _ rfl rfl _))
  | .sre _ => allRespect_combinedBody (fun c v => (Unlisted.lsr rfl rfl c v).trans (.loadA _ rfl rfl _))
  | .rra _ => allRespect_combinedBody (fun c v => (Unlisted.flagC c rfl (c.ror v).2.c).trans (.adc _ rfl rfl rfl rfl _ _))
  | .dcp _ => allRespect_combinedBody (fun c v => .carryNZ c rfl rfl _ _)
  | .isc _ => allRespect_combinedBody (fun c v => .sbc c rfl rfl rfl rfl _ _)
  | .sax _ => allRespect_byPolicy (allRespect_writeBodyAt (fun c => .refl c)) (allRespect_noWriteBody _)
  | .lax _ => allRespect_readByPolicy (act := fun v c => { c with x := v }.loadA v)
      (fun v c => (Unlisted.setX c rfl v).trans (.loadA _ rfl rfl v))
  | .anc _ => allRespect_readByPolicy (act := fun v c => { c with c := (c.a &&& v).getLsbD 7 }.loadA (c.a &&& v))
      (fun v c => .carryLoadA c rfl rfl rfl _ _)
  | .alr => allRespect_readByPolicy (act := fun v c => { (c.lsr (c.a &&& v)).2 with a := (c.lsr (c.a &&& v)).1 })
      (fun v c => (Unlisted.lsr rfl rfl c (c.a &&& v)).trans (.setA _ rfl _))
  | .arr => allRespect_readByPolicy (fun v c => .arr rfl rfl rfl rfl c v)
  | .sbx => allRespect_readByPolicy (fun v c => (Unlisted.flagC c rfl (decide (v.toNat ≤ (c.a &&& c.x).toNat))).trans
      (.loadX _ rfl rfl ((c.a &&& c.x) - v)))
  | .usbc => allRespect_readByPolicy (act := fun v c => c.sbc k.bcdNV v) (fun v c => .sbc c rfl rfl rfl rfl _ v)
  | .las => allRespect_readByPolicy (act := fun v c => { c with x := v &&& c.s, s := v &&& c.s }.loadA (v &&& c.s))
      (fun v c => ((Unlisted.setX c rfl (v &&& c.s)).trans (.setS _ rfl (v &&& c.s))).trans (.loadA _ rfl rfl (v &&& c.s)))
  | .ane => allRespect_readByPolicy (act := fun v c => c.loadA ((c.a ||| k.aneMagic) &&& c.x &&& v))
      (fun v c => .loadA c rfl rfl _)
  | .lxa => allRespect_readByPolicy
      (act := fun v c => { c with x := (c.a ||| k.lxaMagic) &&& v }.loadA ((c.a ||| k.lxaMagic) &&& v))
      (fun v c => (Unlisted.setX c rfl _).trans (.loadA _ rfl rfl _))
  | .sha _ | .shx | .shy => allRespect_unstableStore (fun c => .refl c)
  | .tas => allRespect_unstableStore (fun c => .setS c rfl _)
  | .trap => allRespect_trapBody

/-- The whole run of an instruction respects the lists. -/
theorem unlisted_of_exec {i : Instr} {s t : State} (h : exec i s = .next t) : Unlisted i s.cpu t.cpu := by
  rw [exec_eq_next, Host.Outcome.next.injEq] at h
  rw [← h]
  refine runCycles_keeps (fun u => Unlisted i s.cpu u.cpu) _ (fun cyc hc u hu => ?_) s (.refl s.cpu)
  have hcyc : Respects i cyc := by
    rcases List.mem_cons.mp hc with rfl | hc
    · exact respects_fetchCycle i
    · exact allRespect_body s.cfg i cyc hc
  exact tickWith_keeps (fun u => Unlisted i s.cpu u.cpu) cyc (fun v hv => by rw [beforeCpu_cpu]; exact hv)
    (fun v hv => hv.trans (hcyc v)) (fun v hv => by rw [afterCpu_cpu]; exact hv) u hu

/-- Settles O47. -/
theorem registersWrittenOnlyBy : Obligations.RegistersWrittenOnlyBy := by
  intro i s t h
  have hu := unlisted_of_exec h
  exact ⟨hu.keepsA, hu.keepsX, hu.keepsY, hu.keepsS⟩

/-- Settles O48. -/
theorem flagsWrittenOnlyBy : Obligations.FlagsWrittenOnlyBy := by
  intro i s t h
  have hu := unlisted_of_exec h
  exact ⟨hu.keepsNZ, hu.keepsV, hu.keepsD, hu.keepsI, hu.keepsC⟩

end Sys2Proof.Proofs.Listed

/-! An undocumented opcode whose policy is NOP (rules R430, R431): its program only reads, past its operand bytes, in any state. -/

namespace Sys2Proof.Proofs.NopPolicy

open Sys2Proof Sys2Proof.Machine Sys2Proof.Proofs.OpcodeMap Sys2Proof.Proofs.PlainMemory Sys2Proof.Proofs.Returns

/-- The cycles run to the end of an instruction, read `n` bytes at PC and change nothing else of the registers or of
memory. -/
def Passes (n : Nat) (cs : List Cycle) : Prop :=
  ∀ (u : State) (c : Cpu), c.prog ≠ .none →
    (runCycles cs (u.withCpu c)).mem = u.mem ∧
      (runCycles cs (u.withCpu c)).cpu.regs = { c.regs with pc := c.pc + BitVec.ofNat 16 n, irqDelay := false }

theorem add_one_ofNat (a : Addr) (n : Nat) : a + 1 + BitVec.ofNat 16 n = a + BitVec.ofNat 16 (n + 1) := by
  rw [Nat.add_comm, BitVec.ofNat_add, ← BitVec.add_assoc]
  rfl

theorem mem_finish (u : State) (c : Cpu) : (finish u c).mem = u.mem := (sameMemory_finish u c).mem

theorem passes_last {addr : Cpu → Addr} {eff : Byte → Cpu → Cpu} (he : ∀ b c, (eff b c).regs = c.regs) (cs : List Cycle) :
    Passes 0 (readCycle endInstr addr eff :: cs) := by
  intro u c _
  rw [runCycles_lastRead, mem_finish, regs_finish, busRead_mem, beforeCpu_mem, he, BitVec.add_zero]
  exact ⟨rfl, rfl⟩

theorem passes_lastFetch {eff : Byte → Cpu → Cpu} (he : ∀ b c, (eff b c).regs = c.regs) (cs : List Cycle) :
    Passes 1 (fetchByte endInstr eff :: cs) := by
  intro u c _
  rw [fetchByte, runCycles_lastRead, mem_finish, regs_finish, busRead_mem, beforeCpu_mem, he]
  exact ⟨rfl, rfl⟩

theorem passes_read {n : Nat} {addr : Cpu → Addr} {eff : Byte → Cpu → Cpu} {cs : List Cycle}
    (he : ∀ b c, (eff b c).regs = c.regs) (hp : ∀ b c, (eff b c).prog = c.prog) (h : Passes n cs) :
    Passes n (readCycle advance addr eff :: cs) := by
  intro u c hc
  have hne (b : Byte) : (eff b c).prog ≠ .none := by rw [hp]; exact hc
  rw [runCycles_read _ _ _ _ _ (hne _)]
  obtain ⟨hmem, hregs⟩ := h (readTick (addr c) u) { eff (busRead (addr c) (beforeCpu u)).1 c with
    t := (eff (busRead (addr c) (beforeCpu u)).1 c).t + 1 } (hne _)
  have hpc : (eff (busRead (addr c) (beforeCpu u)).1 c).pc = c.pc := congrArg Regs.pc (he _ c)
  have hr : ({ eff (busRead (addr c) (beforeCpu u)).1 c with
      t := (eff (busRead (addr c) (beforeCpu u)).1 c).t + 1 } : Cpu).regs = c.regs := he _ c
  refine ⟨hmem.trans (sameMemory_readTick _ u).mem, ?_⟩
  rw [hregs, hr, hpc]

theorem passes_fetch {n : Nat} {eff : Byte → Cpu → Cpu} {cs : List Cycle} (he : ∀ b c, (eff b c).regs = c.regs)
    (hp : ∀ b c, (eff b c).prog = c.prog) (h : Passes n cs) : Passes (n + 1) (fetchByte advance eff :: cs) := by
  intro u c hc
  have hne (b : Byte) : (eff b c.incPc).prog ≠ .none := by rw [hp]; exact hc
  rw [fetchByte, runCycles_read (fun c => c.pc) (fun b c => eff b c.incPc) cs u c (hne _)]
  obtain ⟨hmem, hregs⟩ := h (readTick c.pc u) { eff (busRead c.pc (beforeCpu u)).1 c.incPc with
    t := (eff (busRead c.pc (beforeCpu u)).1 c.incPc).t + 1 } (hne _)
  have hpc : (eff (busRead c.pc (beforeCpu u)).1 c.incPc).pc = c.pc + 1 := congrArg Regs.pc (he _ c.incPc)
  have hr : ({ eff (busRead c.pc (beforeCpu u)).1 c.incPc with
      t := (eff (busRead c.pc (beforeCpu u)).1 c.incPc).t + 1 } : Cpu).regs = c.incPc.regs := he _ c.incPc
  refine ⟨hmem.trans (sameMemory_readTick _ u).mem, ?_⟩
  rw [hregs, hr, hpc, add_one_ofNat]
  rfl

theorem passes_addressCycles (m : MemMode) {cs : List Cycle} (h : Passes 0 cs) :
    Passes (memBytes m) (addressCycles m ++ cs) := by
  cases m
  case zp => exact passes_fetch (fun _ _ => rfl) (fun _ _ => rfl) h
  case zpx | zpy =>
    exact passes_fetch (fun _ _ => rfl) (fun _ _ => rfl) (passes_read (fun _ _ => rfl) (fun _ _ => rfl) h)
  case abs | absx | absy =>
    exact passes_fetch (fun _ _ => rfl) (fun _ _ => rfl) (passes_fetch (fun _ _ => rfl) (fun _ _ => rfl) h)
  case izx =>
    exact passes_fetch (fun _ _ => rfl) (fun _ _ => rfl) (passes_read (fun _ _ => rfl) (fun _ _ => rfl)
      (passes_read (fun _ _ => rfl) (fun _ _ => rfl) (passes_read (fun _ _ => rfl) (fun _ _ => rfl) h)))
  case izy =>
    exact passes_fetch (fun _ _ => rfl) (fun _ _ => rfl) (passes_read (fun _ _ => rfl) (fun _ _ => rfl)
      (passes_read (fun _ _ => rfl) (fun _ _ => rfl) h))

theorem passes_carryCycle (m : MemMode) {cs : List Cycle} (h : Passes 0 cs) : Passes 0 (carryCycle m :: cs) :=
  passes_read (eff := fun _ c => c.fixHigh) (fun _ c => Cpu.fixHigh_regs c) (fun _ c => Cpu.fixHigh_prog c) h

theorem passes_carryCycles (m : MemMode) {cs : List Cycle} (h : Passes 0 cs) : Passes 0 (carryCycles m ++ cs) := by
  unfold carryCycles
  split
  · exact passes_carryCycle m h
  · exact h

theorem passes_operandCycle (m : MemMode) (cs : List Cycle) : Passes 0 (operandCycle m (fun _ c => c) :: cs) :=
  passes_last (addr := m.latched) (eff := fun b c => { c with data := b, ea := m.latched c }) (fun _ _ => rfl) cs

/-- The read at the un-carried address, whichever way it goes. -/
theorem passes_uncarriedCycle (m : MemMode) :
    Passes 0 [uncarriedCycle m (fun _ c => c), operandCycle m (fun _ c => c)] := by
  intro u c hc
  cases hx : c.cross with
  | true =>
    rw [runCycles_congr (g := carryCycle m) (by rw [beforeCpu_withCpu, uncarriedCycle, State.withCpu_cpu, if_pos hx])]
    exact passes_carryCycle m (passes_operandCycle m []) u c hc
  | false =>
    rw [runCycles_congr (g := operandCycle m (fun _ c => c))
      (by rw [beforeCpu_withCpu, uncarriedCycle, State.withCpu_cpu, if_neg (ne_true_of_eq_false hx)])]
    exact passes_operandCycle m _ u c hc

theorem passes_readBody (m : ReadMode) : Passes (readBytes m) (readBody m (fun _ c => c)) := by
  cases m with
  | imm => exact passes_lastFetch (fun _ _ => rfl) []
  | mem m =>
    refine passes_addressCycles m ?_
    split
    · exact passes_uncarriedCycle m
    · exact passes_operandCycle m []

theorem passes_noWriteBody (m : MemMode) : Passes (memBytes m) (noWriteBody m) := by
  rw [noWriteBody, List.append_assoc]
  exact passes_addressCycles m (passes_carryCycles m (passes_operandCycle m []))

theorem passes_noRmwBody (m : MemMode) : Passes (memBytes m) (noRmwBody m) := by
  have hread {cs : List Cycle} (h : Passes 0 cs) : Passes 0 (readDataCycle m :: cs) :=
    passes_read (fun _ _ => rfl) (fun _ _ => rfl) h
  rw [noRmwBody, List.append_assoc]
  exact passes_addressCycles m (passes_carryCycles m (hread (hread (passes_operandCycle m []))))

theorem passes_impliedBody : Passes 0 (impliedBody (fun c => c)) := passes_last (fun _ _ => rfl) []

theorem passes_nopUndocBody (m : NopMode) : Passes m.operandBytes (nopUndocBody m) := by
  cases m
  case imp => exact passes_impliedBody
  case imm => exact passes_readBody .imm
  all_goals exact passes_readBody (.mem _)

/-- The program that a policy NOP selects. -/
theorem passes_byPolicy {k : MachineCfg} {i : Instr} {n : Nat} {reference asNop : List Cycle} (h : runsAsNop k i = true)
    (hn : Passes n asNop) : Passes n (byPolicy k i reference asNop) := by
  rw [byPolicy, if_pos h]
  exact hn

theorem passes_combinedBody {k : MachineCfg} {i : Instr} (m : StoreMode) (f : Cpu → Byte → Byte × Cpu)
    (h : runsAsNop k i = true) : Passes m.operandBytes (combinedBody k i m f) := by
  rw [← Results.memBytes_memModeOfStore]
  exact passes_byPolicy h (passes_noRmwBody _)

theorem passes_readByPolicy {k : MachineCfg} {i : Instr} (m : ReadMode) (act : Byte → Cpu → Cpu)
    (h : runsAsNop k i = true) : Passes (readBytes m) (readByPolicy k i m act) :=
  passes_byPolicy h (passes_readBody m)

theorem passes_unstableStore {k : MachineCfg} {i : Instr} (m : MemMode) (out : Cpu → Byte × Cpu)
    (h : runsAsNop k i = true) : Passes (memBytes m) (unstableStore k i m out) :=
  passes_byPolicy h (passes_noWriteBody m)

/-- A documented instruction has no policy. -/
theorem undocumented_of_runsAsNop {k : MachineCfg} {i : Instr} (h : runsAsNop k i = true) : i.undocumented = true :=
  (Bool.and_eq_true_iff.mp h).1

theorem passes_body {k : MachineCfg} : ∀ i : Instr, runsAsNop k i = true → Passes i.operandBytes (body k i)
  | .jam _, _ => passes_impliedBody
  | .nopUndoc m _, _ => passes_nopUndocBody m
  | .slo m, h | .rla m, h | .sre m, h | .rra m, h | .dcp m, h | .isc m, h => passes_combinedBody m _ h
  | .sax m, h => by
    rw [Instr.operandBytes, ← Results.memBytes_memModeOfSax]
    exact passes_byPolicy h (passes_noWriteBody _)
  | .lax m, h => by
    rw [Instr.operandBytes, ← Results.memBytes_memModeOfLax]
    exact passes_readByPolicy (.mem (memModeOfLax m)) _ h
  | .anc _, h | .alr, h | .arr, h | .sbx, h | .usbc, h | .ane, h | .lxa, h => passes_readByPolicy .imm _ h
  | .las, h => passes_readByPolicy (.mem .absy) _ h
  | .sha m, h => by
    rw [Instr.operandBytes, ← Results.memBytes_memModeOfSha]
    exact passes_unstableStore _ _ h
  | .shx, h | .tas, h => passes_unstableStore .absy _ h
  | .shy, h => passes_unstableStore .absx _ h
  | .lda _, h | .ldx _, h | .ldy _, h | .sta _, h | .stx _, h | .sty _, h | .tax, h | .tay, h | .txa, h | .tya, h
  | .tsx, h | .txs, h | .pha, h | .php, h | .pla, h | .plp, h | .adc _, h | .sbc _, h | .and _, h | .ora _, h | .eor _, h
  | .cmp _, h | .cpx _, h | .cpy _, h | .bit _, h | .inc _, h | .dec _, h | .inx, h | .iny, h | .dex, h | .dey, h
  | .asl _, h | .lsr _, h | .rol _, h | .ror _, h | .bpl, h | .bmi, h | .bvc, h | .bvs, h | .bcc, h | .bcs, h | .bne, h
  | .beq, h | .jmp _, h | .jsr, h | .rts, h | .brk, h | .rti, h | .clc, h | .sec, h | .cli, h | .sei, h | .cld, h
  | .sed, h | .clv, h | .nop, h | .trap, h => absurd (undocumented_of_runsAsNop h) Bool.false_ne_true

/-- Settles O45. -/
theorem nopPolicyChangesNothing : Obligations.NopPolicyChangesNothing := by
  intro i s _ h
  have hrun := passes_body i h (readTick s.cpu.pc s) (s.cpu.fetchedOpcode s.cfg i) (progOf_ne_none i)
  obtain ⟨hmem, hregs⟩ := hrun
  refine ⟨_, exec_eq_runInstr i s, ?_, ?_⟩
  · rw [runCycles_fetch, hmem, (sameMemory_readTick s.cpu.pc s).mem]
  · rw [runCycles_fetch, hregs, Cpu.fetchedOpcode, if_pos h]
    rfl

end Sys2Proof.Proofs.NopPolicy

/-! What a storing instruction, a push and the interrupt entry leave (rules R183 to R187, R451): every byte but the cells that
stores to their own addresses reach, and every chip setting where those addresses are plain memory. -/

namespace Sys2Proof.Proofs.Frames

open Sys2Proof Sys2Proof.Machine Sys2Proof.Proofs.Cycles Sys2Proof.Proofs.Invariant Sys2Proof.Proofs.OpcodeMap
open Sys2Proof.Proofs.Undocumented

/-! ### The frame -/

/-- From `s` to `t` at most the cells that stores to the addresses `as` reach changed, and chip settings only where one of
those addresses is a chip's. -/
structure StoresIn (as : List Addr) (s t : State) : Prop where
  traps : t.traps = s.traps
  maps : t.maps = s.maps
  cfg : t.cfg = s.cfg
  other : ∀ c : Addr, (∀ a ∈ as, s.storedCell a ≠ some c) → rawRead t.mem c = rawRead s.mem c
  chips : (∀ a ∈ as, s.plainAt a = true) → ChipsKept s t

theorem StoresIn.refl (as : List Addr) (s : State) : StoresIn as s s :=
  ⟨rfl, rfl, rfl, fun _ _ => rfl, fun _ => ChipsKept.refl s⟩

theorem StoresIn.then_reads {as : List Addr} {s t u : State} (h : StoresIn as s t) (g : SameButFlags t u) :
    StoresIn as s u where
  traps := g.traps.trans h.traps
  maps := g.maps.trans h.maps
  cfg := g.cfg.trans h.cfg
  other c hc := by rw [g.mem]; exact h.other c hc
  chips hp := ChipsKept.trans (h.chips hp) g.chips

/-- No part of a tick but a write breaks the frame. -/
theorem keptByReads_storesIn (as : List Addr) (s : State) : KeptByReads (StoresIn as s) where
  before := fun t h => h.then_reads ((keptByReads_sameButFlags t).before t (.refl t))
  after := fun t h => h.then_reads ((keptByReads_sameButFlags t).after t (.refl t))
  withCpu := fun t c h => h.then_reads ((keptByReads_sameButFlags t).withCpu t c (.refl t))
  lines := fun t h => h.then_reads ((keptByReads_sameButFlags t).lines t (.refl t))
  read := fun a t h => h.then_reads ((keptByReads_sameButFlags t).read a t (.refl t))

/-- A store to plain memory reaches no chip. -/
theorem chipsKept_busWrite_plain {a : Addr} {t : State} (h : t.plainAt a = true) (x : Byte) :
    ChipsKept t (busWrite a x t) := by
  unfold State.plainAt at h
  unfold busWrite
  cases hh : t.handler a with
  | ram c => exact ⟨rfl, rfl, rfl, rfl⟩
  | rom c => exact ChipsKept.refl t
  | colour c => exact ⟨rfl, rfl, rfl, rfl⟩
  | unconnected => exact ChipsKept.refl t
  | vic r => rw [hh] at h; exact absurd h Bool.false_ne_true
  | via id r => rw [hh] at h; exact absurd h Bool.false_ne_true
  | composite chips r => rw [hh] at h; exact absurd h Bool.false_ne_true

theorem StoresIn.then_write {as : List Addr} {s t : State} (h : StoresIn as s t) {a : Addr} (ha : a ∈ as) (x : Byte) :
    StoresIn as s (busWrite a x t) where
  traps := (busWrite_traps a x t).trans h.traps
  maps := (busWrite_maps a x t).trans h.maps
  cfg := (busWrite_cfg a x t).trans h.cfg
  other c hc := (busWrite_other x (by rw [State.storedCell_congr h.maps h.cfg]; exact hc a ha)).trans (h.other c hc)
  chips hp := ChipsKept.trans (h.chips hp)
    (chipsKept_busWrite_plain ((State.plainAt_congr h.maps h.cfg a).trans (hp a ha)) x)

section Ticks

variable {as : List Addr} {s t : State}

theorem StoresIn.before (h : StoresIn as s t) : StoresIn as s (beforeCpu t) := (keptByReads_storesIn as s).before t h

theorem StoresIn.after (h : StoresIn as s t) : StoresIn as s (afterCpu t) := (keptByReads_storesIn as s).after t h

theorem StoresIn.read (h : StoresIn as s t) (a : Addr) : StoresIn as s (busRead a t).2 :=
  (keptByReads_storesIn as s).read a t h

theorem StoresIn.finish (h : StoresIn as s t) (c : Cpu) : StoresIn as s (finish t c) :=
  StoresIn.after (readsOnly_endInstr _ (keptByReads_storesIn as s) _ ((keptByReads_storesIn as s).withCpu t c h))

theorem StoresIn.readTick (h : StoresIn as s t) (a : Addr) : StoresIn as s (readTick a t) := (h.before.read a).after

theorem StoresIn.writeTick (h : StoresIn as s t) {a : Addr} (ha : a ∈ as) (x : Byte) : StoresIn as s (writeTick a x t) :=
  (h.before.then_write ha x).after

theorem StoresIn.afterReads (h : StoresIn as s t) (bs : List Addr) : StoresIn as s (t.afterReads bs) := by
  induction bs generalizing t with
  | nil => exact h
  | cons b bs ih => exact ih (h.readTick b)

theorem StoresIn.idleTicks (h : StoresIn as s t) (n : Nat) : StoresIn as s (idleTicks n t) := by
  induction n generalizing t with
  | zero => exact h
  | succ n ih => exact ih h.before.after

end Ticks

theorem storesIn_atStore (as : List Addr) (s : State) (m : MemMode) : StoresIn as s (s.atStore m) := by
  unfold State.atStore
  split
  · exact (((StoresIn.refl as s).idleTicks _).readTick _).before
  · exact ((StoresIn.refl as s).idleTicks _).before

theorem storesIn_atModified {as : List Addr} {s : State} {m : MemMode} (ha : s.operandAddress m ∈ as) :
    StoresIn as s (s.atModified m) :=
  (((storesIn_atStore as s m).read _).after.writeTick ha _).before

/-! ### Stores and read-modify-write -/

/-- The run of an instruction whose body only reads stores nowhere. -/
theorem storesIn_reading {i : Instr} {s t : State} (as : List Addr) (hb : Shaped false (body s.cfg i))
    (h : exec i s = .next t) : StoresIn as s t := by
  rw [exec_eq_next, Host.Outcome.next.injEq] at h
  rw [← h]
  refine (keptByReads_storesIn as s).runCycles ?_ (.refl as s)
  simp only [instrProgram, List.forall_mem_cons]
  exact ⟨readsOnly_fetchCycle i, hb.readsOnly⟩

/-- A policy NOP makes a program that only reads; else it is the reference program. -/
theorem byPolicy_cases (k : MachineCfg) (i : Instr) {reference asNop : List Cycle} (hn : Shaped false asNop) :
    byPolicy k i reference asNop = reference ∨ Shaped false (byPolicy k i reference asNop) := by
  unfold byPolicy
  split
  · exact .inr hn
  · exact .inl rfl

/-- The program of a storing instruction writes at the address its latches hold, and is of a class that does so, or only
reads. -/
def StoringBody (m : MemMode) (cs : List Cycle) : Prop :=
  (∃ out, cs = writeBodyAt m m.latched out) ∨ (∃ f, cs = rmwBody m f) ∨ Shaped false cs

theorem storingBody_combined (k : MachineCfg) (i : Instr) (m : StoreMode) (f : Cpu → Byte → Byte × Cpu) :
    StoringBody (memModeOfStore m) (combinedBody k i m f) := by
  rcases byPolicy_cases k i (reference := rmwBody (memModeOfStore m) f) (Shaped.noModify false (memModeOfStore m)) with h | h
  · exact .inr (.inl ⟨f, h⟩)
  · exact .inr (.inr h)

theorem storingBody_sax (k : MachineCfg) (m : SaxMode) : StoringBody (memModeOfSax m) (saxBody k m) := by
  rcases byPolicy_cases k (.sax m) (reference := writeBody (memModeOfSax m) (fun c => c.a &&& c.x))
    (Shaped.noWrite false (memModeOfSax m)) with h | h
  · exact .inl ⟨_, h⟩
  · exact .inr (.inr h)

theorem storingBody_of_storeMode (k : MachineCfg) : ∀ {i : Instr} {m : MemMode}, storeMode i = some m →
    i.operandBytes = memBytes m ∧ StoringBody m (body k i) := by
  intro i m h
  cases i <;> simp only [storeMode, Option.some.injEq, reduceCtorEq] at h
  case sta n => subst h; exact ⟨(Results.memBytes_memModeOfStore n).symm, .inl ⟨_, rfl⟩⟩
  case stx n => subst h; exact ⟨(Results.memBytes_memModeOfStx n).symm, .inl ⟨_, rfl⟩⟩
  case sty n => subst h; exact ⟨(Results.memBytes_memModeOfSty n).symm, .inl ⟨_, rfl⟩⟩
  case inc n | dec n => subst h; exact ⟨(Results.memBytes_memModeOfInc n).symm, .inr (.inl ⟨_, rfl⟩)⟩
  case asl n | lsr n | rol n | ror n =>
    exact ⟨(Results.memBytes_memModeOfShift h).symm, .inr (.inl ⟨_, Results.shiftBody_memory h⟩)⟩
  case sax n => subst h; exact ⟨(Results.memBytes_memModeOfSax n).symm, storingBody_sax k n⟩
  case slo n | rla n | sre n | rra n | dcp n | isc n =>
    subst h; exact ⟨(Results.memBytes_memModeOfStore n).symm, storingBody_combined k _ n _⟩

/-- The stores and the read-modify-write instructions store at their operand address. -/
theorem storesIn_of_storeMode {i : Instr} {m : MemMode} {s t : State} (hm : storeMode i = some m)
    (hp : s.codePlain m = true) (h : exec i s = .next t) : StoresIn [s.operandAddress m] s t := by
  obtain ⟨hb, ⟨out, hbody⟩ | ⟨f, hbody⟩ | hbody⟩ := storingBody_of_storeMode s.cfg hm
  · obtain ⟨c, hc, hrun⟩ := runCycles_writeBodyAt s i m m.latched out hb hp
    rw [exec_eq_runInstr, hbody, runInstr, hrun, Host.Outcome.next.injEq, hc.latched] at h
    rw [← h]
    exact ((storesIn_atStore _ s m).then_write List.mem_cons_self _).finish _
  · obtain ⟨c, -, hrun⟩ := runCycles_rmwBody s i m f hb hp
    rw [exec_eq_runInstr, hbody, runInstr, hrun, Host.Outcome.next.injEq] at h
    rw [← h]
    exact ((storesIn_atModified List.mem_cons_self).then_write List.mem_cons_self _).finish _
  · exact storesIn_reading _ hbody h

/-- The unstable stores store at the address of rule R451. -/
theorem storesIn_unstable {i : Instr} {m : MemMode} {out : Cpu → Byte × Cpu} {v : Byte} {s t : State}
    (hi : body s.cfg i = unstableStore s.cfg i m out) (hb : i.operandBytes = memBytes m) (hm : m.carries = true)
    (hp : s.codePlain m = true)
    (hv : ∀ c : Cpu, c.regs = s.fetched i → c.highPlusOne = baseHigh s.peek (s.cpu.pc + 1) m + 1 → (out c).1 = v)
    (h : exec i s = .next t) : StoresIn [s.unstableAddress m v] s t := by
  rcases byPolicy_cases s.cfg i (reference := writeBodyAt m (fun c => c.unstableAddr (out c).1) out)
    (Shaped.noWrite false m) with href | hnop
  · obtain ⟨c, hc, hrun⟩ := runCycles_writeBodyAt s i m (fun c => c.unstableAddr (out c).1) out hb hp
    have hval := hv c hc.regs (highPlusOne_ready hc hm)
    rw [exec_eq_runInstr, hi, unstableStore, href, runInstr, hrun, Host.Outcome.next.injEq, hval,
      unstableAddr_ready hc hm] at h
    rw [← h]
    exact ((storesIn_atStore _ s m).then_write List.mem_cons_self _).finish _
  · exact storesIn_reading _ (hi ▸ hnop) h

/-- The frame of one address, in the words of O50. -/
theorem StoresIn.single {a : Addr} {s t : State} (h : StoresIn [a] s t) :
    (∀ c : Addr, s.storedCell a ≠ some c → rawRead t.mem c = rawRead s.mem c) ∧ (s.plainAt a = true → ChipsKept s t) ∧
      t.traps = s.traps ∧ t.maps = s.maps ∧ t.cfg = s.cfg :=
  ⟨fun c hc => h.other c (fun b hb => by rw [List.mem_singleton.mp hb]; exact hc),
    fun hp => h.chips (fun b hb => by rw [List.mem_singleton.mp hb]; exact hp), h.traps, h.maps, h.cfg⟩

/-- Settles O50. -/
theorem storingFrame : Obligations.StoringFrame := by
  intro i m s t hp hexec high
  refine ⟨fun hm => (storesIn_of_storeMode hm hp hexec).single, fun v hv => ?_⟩
  rcases hv with ⟨rfl, rfl, rfl⟩ | ⟨rfl, rfl, rfl⟩ | ⟨rfl, rfl, rfl⟩ | ⟨rfl, rfl, rfl⟩ | ⟨rfl, rfl, rfl⟩
  · exact (storesIn_unstable (i := .sha .izy) (out := fun c => (c.a &&& c.x &&& c.highPlusOne, c)) rfl rfl rfl hp
      (fun c hc hh => by dsimp only; rw [a_of_fetched hc, x_of_fetched hc, hh]; rfl) hexec).single
  · exact (storesIn_unstable (i := .sha .absy) (out := fun c => (c.a &&& c.x &&& c.highPlusOne, c)) rfl rfl rfl hp
      (fun c hc hh => by dsimp only; rw [a_of_fetched hc, x_of_fetched hc, hh]; rfl) hexec).single
  · exact (storesIn_unstable (i := .shx) (out := fun c => (c.x &&& c.highPlusOne, c)) rfl rfl rfl hp
      (fun c hc hh => by dsimp only; rw [x_of_fetched hc, hh]) hexec).single
  · exact (storesIn_unstable (i := .shy) (out := fun c => (c.y &&& c.highPlusOne, c)) rfl rfl rfl hp
      (fun c hc hh => by dsimp only; rw [y_of_fetched hc, hh]) hexec).single
  · exact (storesIn_unstable (i := .tas) (out := fun c => (c.a &&& c.x &&& c.highPlusOne, { c with s := c.a &&& c.x }))
      rfl rfl rfl hp (fun c hc hh => by dsimp only; rw [a_of_fetched hc, x_of_fetched hc, hh]) hexec).single

/-! ### Pushes -/

/-- The stack addresses at the given offsets from S. -/
def stackCells (s : State) (pushed : List Byte) : List Addr := pushed.map s.stackAt

theorem mem_stackCells {s : State} {pushed : List Byte} {k : Byte} (h : k ∈ pushed) : s.stackAt k ∈ stackCells s pushed :=
  List.mem_map_of_mem h

/-- The frame of a list of stack cells, in the words of O51. -/
theorem StoresIn.pushed {pushed : List Byte} {s t : State} (h : StoresIn (stackCells s pushed) s t) :
    (∀ c : Addr, (∀ k ∈ pushed, s.storedCell (s.stackAt k) ≠ some c) → rawRead t.mem c = rawRead s.mem c) ∧
      ((∀ k ∈ pushed, s.plainAt (s.stackAt k) = true) → ChipsKept s t) :=
  ⟨fun c hc => h.other c (List.forall_mem_map.mpr hc), fun hp => h.chips (List.forall_mem_map.mpr hp)⟩

/-- The last tick of an entry through a vector, whatever ends it: two reads after the pushes. -/
theorem storesIn_vectorTicks {as : List Addr} {s w : State} {fin : State → State} (hf : ReadsOnly fin)
    (h : StoresIn as s w) (vector : Addr) (c : Cpu) : StoresIn as s (Interrupts.vectorTicks fin vector w c) :=
  StoresIn.after (hf _ (keptByReads_storesIn as s) _
    ((keptByReads_storesIn as s).withCpu _ _ ((h.before.read vector).after.before.read (vector + 1))))

/-- The three pushes of the entry through a vector. -/
theorem storesIn_pushes {s u : State} (h : StoresIn (stackCells s [0, 255, 254]) s u) (x y z : Byte) :
    StoresIn (stackCells s [0, 255, 254]) s
      (writeTick (s.stackAt 254) x (writeTick (s.stackAt 255) y (writeTick (s.stackAt 0) z u))) :=
  ((h.writeTick (mem_stackCells (by decide)) z).writeTick (mem_stackCells (by decide)) y).writeTick
    (mem_stackCells (by decide)) x

/-- Settles O51, from the exact run of each program. -/
theorem stackFrame : Obligations.StackFrame := by
  intro s t kept
  have start (pushed : List Byte) (reads : List Addr) : StoresIn (stackCells s pushed) s (s.afterReads reads) :=
    (StoresIn.refl _ s).afterReads reads
  refine ⟨fun h => ?_, fun h => ?_, fun h => ?_, fun h => ?_, fun k hprog hnext h => ?_⟩
  · rw [Control.exec_push (i := .pha) (value := fun c => c.a) rfl rfl, Host.Outcome.next.injEq] at h
    subst h
    exact (((start [0] _).before.then_write (mem_stackCells (by decide)) _).finish _).pushed
  · rw [Control.exec_push (i := .php) (value := fun c => c.pImage true) rfl rfl, Host.Outcome.next.injEq] at h
    subst h
    exact (((start [0] _).before.then_write (mem_stackCells (by decide)) _).finish _).pushed
  · obtain ⟨⟨c, -, hexec⟩, -⟩ := Control.subroutinesComplete s
    rw [hexec, Host.Outcome.next.injEq] at h
    subst h
    exact (((((start [0, 255] _).writeTick (mem_stackCells (by decide)) _).writeTick (mem_stackCells (by decide)) _).before.read
      _).finish _).pushed
  · obtain ⟨c, -, hexec⟩ := Returns.breakCompletes s
    rw [hexec, Host.Outcome.next.injEq] at h
    subst h
    exact (((((storesIn_pushes (start _ _) _ _ _).before.read _).after.before.read _).finish _)).pushed
  · rw [Interrupts.step_ofInterrupt hprog hnext, Interrupts.runCycles_interruptSequence, Interrupts.pushTicks_inSequence,
      Host.Outcome.next.injEq] at h
    subst h
    exact (storesIn_vectorTicks readsOnly_endSequence (storesIn_pushes (start _ _) _ _ _) _ _).pushed

end Sys2Proof.Proofs.Frames

/-! How many ticks an instruction takes (rules R182 to R189): a program whose cycles all advance but the last takes as many as
it has; the read class and the branches take those up to the cycle that ends them in the given state. -/

namespace Sys2Proof.Proofs.CycleCounts

open Sys2Proof Sys2Proof.Machine Sys2Proof.Proofs.OpcodeMap Sys2Proof.Proofs.ProgramTicks Sys2Proof.Proofs.Cycles
open Sys2Proof.Proofs.StepTicks Sys2Proof.Proofs.PlainMemory Sys2Proof.Proofs.Control

/-! ### Runs counted in ticks -/

/-- The cycles `cs` run from `s` are `n` ticks, where they are what is left of the program in progress. -/
def RunsIn (n : Nat) (cs : List Cycle) (s : State) : Prop :=
  ∀ j : Nat, s.cpu.prog ≠ .none → s.cpu.t = j + 1 → (progCycles s.cfg s.cpu.prog).drop j = cs → runCycles cs s = ticks n s

theorem runsIn_last {cyc : Cycle} {s : State} (h : (tickWith cyc s).cpu.prog = .none) (cs : List Cycle) :
    RunsIn 1 (cyc :: cs) s := by
  intro j hp ht hcs
  have hrun : runCycles (cyc :: cs) s = tickWith cyc s := by rw [runCycles, h]
  rw [hrun, ticks, tick_of_drop hp ht hcs]
  rfl

theorem runsIn_cons {n : Nat} {cyc : Cycle} {cs : List Cycle} {s : State}
    (hadv : (tickWith cyc s).cpu.prog = s.cpu.prog ∧ (tickWith cyc s).cpu.t = s.cpu.t + 1 ∧ (tickWith cyc s).cfg = s.cfg)
    (h : RunsIn n cs (tickWith cyc s)) : RunsIn (n + 1) (cyc :: cs) s := by
  intro j hp ht hcs
  obtain ⟨hprog, hidx, hcfg⟩ := hadv
  have hp' : (tickWith cyc s).cpu.prog ≠ .none := hprog ▸ hp
  have hcs' : (progCycles (tickWith cyc s).cfg (tickWith cyc s).cpu.prog).drop (j + 1) = cs := by
    rw [hprog, hcfg, ← List.tail_drop, hcs, List.tail_cons]
  rw [runCycles_cons hp', h (j + 1) hp' (hidx.trans (congrArg (· + 1) ht)) hcs', ticks, tick_of_drop hp ht hcs]

/-- Cycles that all advance, then what the rest takes from the state they leave. -/
theorem runsIn_append {n : Nat} {cs rest : List Cycle} (hadv : ∀ cyc ∈ cs, AdvancesProgram cyc) :
    ∀ {s : State}, s.cpu.prog ≠ .none → RunsIn n rest (runCycles cs s) → RunsIn (cs.length + n) (cs ++ rest) s := by
  induction cs with
  | nil =>
    intro s _ h
    rw [List.length_nil, Nat.zero_add]
    exact h
  | cons cyc cs ih =>
    intro s hp h
    have hcyc := (hadv cyc List.mem_cons_self).tickWith s
    have hp' : (tickWith cyc s).cpu.prog ≠ .none := hcyc.1 ▸ hp
    rw [runCycles_cons hp'] at h
    rw [List.length_cons, show cs.length + 1 + n = cs.length + n + 1 by omega, List.cons_append]
    exact runsIn_cons hcyc (ih (fun c hc => hadv c (List.mem_cons_of_mem cyc hc)) hp' h)

theorem runsIn_straight {cs : List Cycle} (h : Straight cs) {s : State} (hp : s.cpu.prog ≠ .none) :
    RunsIn cs.length cs s := by
  obtain ⟨init, last, rfl, hinit, hlast⟩ := h
  rw [List.length_append]
  exact runsIn_append hinit hp (runsIn_last (Ends.tickWith hlast _) [])

/-- A step from a boundary that fetches `i` is a tick and then the ticks of its body. -/
theorem step_eq_ticks {s : State} {i : Instr} {n : Nat} (hp : s.cpu.prog = .none) (hn : s.cpu.next = .fetch)
    (hi : fetchedInstr (beforeCpu s) = i) (h : RunsIn n (body s.cfg i) (tickWith (fetchCycle i) s)) :
    step s = .next (ticks (n + 1) s) := by
  obtain ⟨hprog, hidx, hcfg⟩ := (begins_fetchCycle i).tickWith s
  have hp' : (tickWith (fetchCycle i) s).cpu.prog ≠ .none := by rw [hprog]; exact progOf_ne_none i
  have hcs : (progCycles (tickWith (fetchCycle i) s).cfg (tickWith (fetchCycle i) s).cpu.prog).drop 1 = body s.cfg i := by
    rw [hprog, hcfg, ← hi, progCycles_progOf_fetchedInstr]
    rfl
  rw [step_ofFetch hp hn, hi, exec_eq_next, instrProgram, runCycles_cons hp', h 1 hp' hidx hcs, ticks, tick_ofFetch hp hn, hi]

theorem step_eq_ticks_straight {s : State} {i : Instr} (hp : s.cpu.prog = .none) (hn : s.cpu.next = .fetch)
    (hi : fetchedInstr (beforeCpu s) = i) (h : Straight (body s.cfg i)) :
    step s = .next (ticks ((body s.cfg i).length + 1) s) := by
  refine step_eq_ticks hp hn hi (runsIn_straight h ?_)
  rw [((begins_fetchCycle i).tickWith s).1]
  exact progOf_ne_none i

/-! ### Lengths -/

theorem length_addressCycles (m : MemMode) : (addressCycles m).length = addressTicks m := by cases m <;> rfl

theorem length_carryCycles (m : MemMode) : (carryCycles m).length = if m.carries then 1 else 0 := by
  unfold carryCycles
  split <;> rfl

theorem length_toStore (m : MemMode) (rest : List Cycle) :
    (addressCycles m ++ carryCycles m ++ rest).length = addressTicks m + (if m.carries then 1 else 0) + rest.length := by
  rw [List.length_append, List.length_append, length_addressCycles, length_carryCycles]

/-- A body of the write class, run as such or as a no-op. -/
def WriteShape (m : MemMode) (cs : List Cycle) : Prop :=
  Straight cs ∧ cs.length = addressTicks m + (if m.carries then 1 else 0) + 1

/-- A body of the read-modify-write class. -/
def ModifyShape (m : MemMode) (cs : List Cycle) : Prop :=
  Straight cs ∧ cs.length = addressTicks m + (if m.carries then 1 else 0) + 3

theorem writeShape_writeBodyAt (m : MemMode) (addr : Cpu → Addr) (out : Cpu → Byte × Cpu) :
    WriteShape m (writeBodyAt m addr out) := ⟨straight_writeBodyAt m addr out, length_toStore m _⟩

theorem writeShape_noWriteBody (m : MemMode) : WriteShape m (noWriteBody m) :=
  ⟨straight_noWriteBody m, length_toStore m _⟩

theorem modifyShape_rmwBody (m : MemMode) (f : Cpu → Byte → Byte × Cpu) : ModifyShape m (rmwBody m f) :=
  ⟨straight_rmwBody m f, length_toStore m _⟩

theorem modifyShape_noRmwBody (m : MemMode) : ModifyShape m (noRmwBody m) := ⟨straight_noRmwBody m, length_toStore m _⟩

theorem byPolicy_either {P : List Cycle → Prop} {k : MachineCfg} {i : Instr} {reference asNop : List Cycle}
    (hr : P reference) (hn : P asNop) : P (byPolicy k i reference asNop) := by
  unfold byPolicy
  split
  · exact hn
  · exact hr

theorem modifyShape_combinedBody (k : MachineCfg) (i : Instr) (m : StoreMode) (f : Cpu → Byte → Byte × Cpu) :
    ModifyShape (memModeOfStore m) (combinedBody k i m f) :=
  byPolicy_either (modifyShape_rmwBody _ f) (modifyShape_noRmwBody _)

theorem writeShape_unstableStore (k : MachineCfg) (i : Instr) (m : MemMode) (out : Cpu → Byte × Cpu) :
    WriteShape m (unstableStore k i m out) :=
  byPolicy_either (writeShape_writeBodyAt m _ out) (writeShape_noWriteBody m)

theorem writeShape_body (k : MachineCfg) {i : Instr} {m : MemMode} (h : writeModeOf i = some m) :
    WriteShape m (body k i) := by
  cases i <;> simp only [writeModeOf, Option.some.injEq, reduceCtorEq] at h <;> subst h
  case sta n => exact writeShape_writeBodyAt _ _ _
  case stx n => exact writeShape_writeBodyAt _ _ _
  case sty n => exact writeShape_writeBodyAt _ _ _
  case sax n => exact byPolicy_either (writeShape_writeBodyAt _ _ _) (writeShape_noWriteBody _)
  case sha n => exact writeShape_unstableStore _ _ _ _
  case shx | shy | tas => exact writeShape_unstableStore _ _ _ _

theorem modifyShape_shiftBody (f : Cpu → Byte → Byte × Cpu) {n : ShiftMode} {m : MemMode} (h : memModeOfShift n = some m) :
    ModifyShape m (shiftBody f n) := by
  rw [Results.shiftBody_memory h]
  exact modifyShape_rmwBody m f

theorem modifyShape_body (k : MachineCfg) {i : Instr} {m : MemMode} (h : modifyModeOf i = some m) :
    ModifyShape m (body k i) := by
  cases i <;> simp only [modifyModeOf, Option.some.injEq, reduceCtorEq] at h
  case inc n | dec n => subst h; exact modifyShape_rmwBody _ _
  case asl n => exact modifyShape_shiftBody Cpu.asl h
  case lsr n => exact modifyShape_shiftBody Cpu.lsr h
  case rol n => exact modifyShape_shiftBody Cpu.rol h
  case ror n => exact modifyShape_shiftBody Cpu.ror h
  case slo n | rla n | sre n | rra n | dcp n | isc n => subst h; exact modifyShape_combinedBody _ _ _ _

/-! ### The read class -/

/-- A body of the read class in the mode `m`. -/
def ReadShape (m : ReadMode) (cs : List Cycle) : Prop := ∃ act, cs = readBody m act

theorem readShape_readByPolicy (k : MachineCfg) (i : Instr) (m : ReadMode) (act : Byte → Cpu → Cpu) :
    ReadShape m (readByPolicy k i m act) :=
  byPolicy_either ⟨act, rfl⟩ ⟨_, rfl⟩

theorem readShape_body (k : MachineCfg) {i : Instr} {m : ReadMode} (h : readModeOf i = some m) :
    i.operandBytes = readBytes m ∧ ReadShape m (body k i) := by
  cases i <;> simp only [readModeOf, Option.some.injEq, reduceCtorEq] at h
  case lda n | adc n | sbc n => subst h; exact ⟨(Compare.readBytes_readModeOfAlu n).symm, _, rfl⟩
  case and n => subst h; exact ⟨(Compare.readBytes_readModeOfAlu n).symm, fun v c => c.loadA (c.a &&& v), rfl⟩
  case ora n => subst h; exact ⟨(Compare.readBytes_readModeOfAlu n).symm, fun v c => c.loadA (c.a ||| v), rfl⟩
  case eor n => subst h; exact ⟨(Compare.readBytes_readModeOfAlu n).symm, fun v c => c.loadA (c.a ^^^ v), rfl⟩
  case cmp n => subst h; exact ⟨(Compare.readBytes_readModeOfAlu n).symm, fun v c => c.compare c.a v, rfl⟩
  case ldx n => subst h; exact ⟨(Results.readBytes_readModeOfLdx n).symm, _, rfl⟩
  case ldy n => subst h; exact ⟨(Results.readBytes_readModeOfLdy n).symm, _, rfl⟩
  case cpx n => subst h; exact ⟨(Compare.readBytes_readModeOfCpx n).symm, fun v c => c.compare c.x v, rfl⟩
  case cpy n => subst h; exact ⟨(Compare.readBytes_readModeOfCpx n).symm, fun v c => c.compare c.y v, rfl⟩
  case bit n => subst h; exact ⟨(Results.memBytes_memModeOfBit n).symm, _, rfl⟩
  case lax n => subst h; exact ⟨(Results.memBytes_memModeOfLax n).symm, readShape_readByPolicy k _ _ _⟩
  case las => subst h; exact ⟨rfl, readShape_readByPolicy k _ _ _⟩
  case anc op => subst h; exact ⟨rfl, readShape_readByPolicy k _ _ _⟩
  case alr | arr | sbx | usbc | ane | lxa => subst h; exact ⟨rfl, readShape_readByPolicy k _ _ _⟩
  case nopUndoc n op => exact ⟨(Results.readBytes_readModeOfNop h).symm, _, Undocumented.nopUndocBody_read h⟩

theorem tickWith_fetchCycle (i : Instr) (s : State) :
    tickWith (fetchCycle i) s = (s.afterReads [s.cpu.pc]).withCpu (atCycle 2 s i) := by
  rw [← runCycles_singleton, runCycles_fetch]
  rfl

/-- The machine after the address cycles, from the tick after the opcode fetch. -/
theorem runCycles_addressCycles {s : State} {i : Instr} {m : MemMode} (hb : i.operandBytes = memBytes m)
    (hp : s.codePlain m = true) :
    ∃ c : Cpu, AddressReady s i m c ∧
      runCycles (addressCycles m) (tickWith (fetchCycle i) s) = (idleTicks (1 + addressTicks m) s).withCpu c := by
  obtain ⟨c, hc, hrun⟩ := runCycles_address s i m hb hp []
  refine ⟨c, hc, ?_⟩
  have hprog : (tickWith (fetchCycle i) s).cpu.prog ≠ .none := by
    rw [tickWith_fetchCycle]; exact atCycle_prog 2 s i
  rw [List.append_nil, runCycles_cons hprog] at hrun
  exact hrun

/-- The last cycles of a read: one more where the index addition crosses a page. -/
theorem runsIn_readEnd {s u : State} {i : Instr} {m : MemMode} {c : Cpu} (hc : AddressReady s i m c)
    (act : Byte → Cpu → Cpu) :
    RunsIn (1 + if s.crosses m then 1 else 0)
      (if m.carries then [uncarriedCycle m act, operandCycle m act] else [operandCycle m act]) (u.withCpu c) := by
  have hlast (v : State) : (tickWith (operandCycle m act) v).cpu.prog = .none := (ends_operandCycle m act).tickWith v
  cases hm : m.carries with
  | false =>
    have hx : s.crosses m = false := by rw [State.crosses, hm, Bool.false_and]
    rw [hx, if_neg Bool.false_ne_true, if_neg Bool.false_ne_true]
    exact runsIn_last (hlast _) []
  | true =>
    have hcross : (beforeCpu (u.withCpu c)).cpu.cross = s.crosses m := by
      rw [beforeCpu_cpu, State.withCpu_cpu]
      exact hc.cross hm
    rw [if_pos rfl]
    cases hx : s.crosses m with
    | false =>
      have htick : tickWith (uncarriedCycle m act) (u.withCpu c) = tickWith (operandCycle m act) (u.withCpu c) := by
        rw [tickWith_eq, tickWith_eq, uncarriedCycle, hcross, hx, if_neg Bool.false_ne_true]
      rw [if_neg Bool.false_ne_true]
      exact runsIn_last (by rw [htick]; exact hlast _) _
    | true =>
      have htick : tickWith (uncarriedCycle m act) (u.withCpu c) = tickWith (carryCycle m) (u.withCpu c) := by
        rw [tickWith_eq, tickWith_eq, uncarriedCycle, hcross, hx, if_pos rfl]
      rw [if_pos rfl]
      exact runsIn_cons (by rw [htick]; exact (advances_carryCycle m).tickWith _) (runsIn_last (hlast _) [])

theorem runsIn_readBody {s : State} {i : Instr} {m : MemMode} (hb : i.operandBytes = memBytes m)
    (hp : s.codePlain m = true) (act : Byte → Cpu → Cpu) :
    RunsIn (addressTicks m + (1 + if s.crosses m then 1 else 0)) (readBody (.mem m) act) (tickWith (fetchCycle i) s) := by
  obtain ⟨c, hc, hrun⟩ := runCycles_addressCycles hb hp
  have hprog : (tickWith (fetchCycle i) s).cpu.prog ≠ .none := by
    rw [tickWith_fetchCycle]; exact atCycle_prog 2 s i
  rw [← length_addressCycles]
  refine runsIn_append (advances_addressCycles m) hprog ?_
  rw [hrun]
  exact runsIn_readEnd hc act

/-! ### The branches -/

/-- A branch, from the tick after its opcode fetch. -/
theorem runsIn_branchBody {s : State} {i : Instr} {cond : Cpu → Bool} {b : Bool} {off : Byte} {target : Addr}
    (hc : cond (atCycle 2 s i) = b) (hoff : (s.readAfter [s.cpu.pc] (s.cpu.pc + 1)).1 = off)
    (ht : s.cpu.pc + 2 + off.signExtend 16 = target) :
    RunsIn (if b = false then 1 else if hiByte target = hiByte (s.cpu.pc + 2) then 2 else 3) (branchBody cond)
      (tickWith (fetchCycle i) s) := by
  rw [tickWith_fetchCycle]
  have htarget : (branching 3 off s i).branchTarget = target := (branching_target 3 off s i).trans ht
  cases b with
  | false =>
    rw [if_pos rfl]
    refine runsIn_last ?_ _
    rw [← runCycles_singleton, runCycles_branchOffset_not hc, finish_prog]
  | true =>
    have hfirst := runCycles_branchOffset_taken hc []
    rw [runCycles_singleton, hoff] at hfirst
    rw [if_neg (by simp)]
    have hadv (n : Nat) (h : RunsIn n [branchTaken, readCycle endInstr (fun c => c.pc) (fun _ c => { c with pc := c.ea })]
        ((s.afterReads [s.cpu.pc, s.cpu.pc + 1]).withCpu (branching 3 off s i))) :
        RunsIn (n + 1) (branchBody cond) ((s.afterReads [s.cpu.pc]).withCpu (atCycle 2 s i)) := by
      refine runsIn_cons ?_ (by rw [hfirst]; exact h)
      rw [hfirst]
      exact ⟨rfl, rfl, by rw [runCycles, State.withCpu_cfg, State.withCpu_cfg, (sameMemory_afterReads _ s).cfg,
        (sameMemory_afterReads _ s).cfg]⟩
    split
    next hpage =>
      refine hadv 1 (runsIn_last ?_ _)
      rw [← runCycles_singleton, runCycles_branchTaken_inPage (by rw [htarget, branching_pc]; exact hpage), finish_prog]
    next hpage =>
      have htick : tickWith branchTaken ((s.afterReads [s.cpu.pc, s.cpu.pc + 1]).withCpu (branching 3 off s i)) =
          tickWith (readCycle advance (fun c => c.pc)
            (fun _ c => { c with pc := mk16 (hiByte c.pc) (loByte c.branchTarget), ea := c.branchTarget }))
            ((s.afterReads [s.cpu.pc, s.cpu.pc + 1]).withCpu (branching 3 off s i)) := by
        rw [tickWith_eq, tickWith_eq, beforeCpu_withCpu, branchTaken, State.withCpu_cpu,
          if_neg (by rw [htarget, branching_pc]; exact hpage)]
      refine hadv 2 (runsIn_cons ?_ (runsIn_last ((ends_lastRead _ _).tickWith _) []))
      rw [htick]
      exact (advancesProgram_readCycle (addr := fun c => c.pc)
        (eff := fun _ c => { c with pc := mk16 (hiByte c.pc) (loByte c.branchTarget), ea := c.branchTarget })
        (fun _ _ => rfl) (fun _ _ => rfl)).tickWith _

/-- The condition of a branch, on the flags the opcode fetch left. -/
theorem branchBody_of_condition (s : State) {i : Instr} {b : Bool} (h : branchCondition s.cpu i = some b) :
    ∃ cond, body s.cfg i = branchBody cond ∧ cond (atCycle 2 s i) = b := by
  cases i <;> simp only [branchCondition, Option.some.injEq, reduceCtorEq] at h
  case bpl => exact ⟨fun c => !c.n, rfl, h⟩
  case bmi => exact ⟨fun c => c.n, rfl, h⟩
  case bvc => exact ⟨fun c => !c.v, rfl, h⟩
  case bvs => exact ⟨fun c => c.v, rfl, h⟩
  case bcc => exact ⟨fun c => !c.c, rfl, h⟩
  case bcs => exact ⟨fun c => c.c, rfl, h⟩
  case bne => exact ⟨fun c => !c.z, rfl, h⟩
  case beq => exact ⟨fun c => c.z, rfl, h⟩

/-! ### The others -/

theorem straight_shiftAcc (f : Cpu → Byte → Byte × Cpu) : Straight (shiftBody f .acc) :=
  straight_impliedBody (fun c => { (f c c.a).2 with a := (f c c.a).1 })

/-- The instructions of a fixed length. -/
theorem straight_of_fixedTicks (k : MachineCfg) : ∀ {i : Instr} {n : Nat}, fixedTicks i = some n →
    Straight (body k i) ∧ (body k i).length + 1 = n
  | .pha, _, rfl | .php, _, rfl => ⟨straight_push _, rfl⟩
  | .pla, _, rfl | .plp, _, rfl => ⟨straight_pull _, rfl⟩
  | .jmp .abs, _, rfl => ⟨straight_jmpBody .abs, rfl⟩
  | .jmp .ind, _, rfl => ⟨straight_jmpBody .ind, rfl⟩
  | .jsr, _, rfl => ⟨straight_jsrBody, rfl⟩
  | .rts, _, rfl => ⟨straight_rtsBody, rfl⟩
  | .rti, _, rfl => ⟨straight_rtiBody, rfl⟩
  | .brk, _, rfl => ⟨straight_brkBody, rfl⟩
  | .tax, _, rfl | .tay, _, rfl | .txa, _, rfl | .tya, _, rfl | .tsx, _, rfl | .txs, _, rfl | .inx, _, rfl | .iny, _, rfl
  | .dex, _, rfl | .dey, _, rfl | .clc, _, rfl | .sec, _, rfl | .cli, _, rfl | .sei, _, rfl | .cld, _, rfl | .sed, _, rfl
  | .clv, _, rfl | .nop, _, rfl | .jam _, _, rfl | .nopUndoc .imp _, _, rfl => ⟨straight_impliedBody _, rfl⟩
  | .asl .acc, _, rfl | .lsr .acc, _, rfl | .rol .acc, _, rfl | .ror .acc, _, rfl => ⟨straight_shiftAcc _, rfl⟩

/-- Settles O6, class by class. -/
theorem cycleCounts : Obligations.CycleCounts := by
  intro s hp hn ha
  refine ⟨fun r hr hb => ?_, fun hfree i hw ht hb => ?_⟩
  · exact step_eq_ticks_straight hp hn (fetchedInstr_trapped ha (by rw [hr]; rfl) hb) straight_trapBody
  have hi : fetchedInstr (beforeCpu s) = i := by
    rw [fetchedInstr_untrapped ha (.inl hfree), hb, Encoding.decodeOpcode_opcode hw ht]
  refine ⟨fun h => ?_, fun m h hplain => ?_, fun m h _ => ?_, fun m h _ => ?_, fun n h => ?_, fun b h hplain => ?_⟩
  · obtain ⟨-, act, hbody⟩ := readShape_body s.cfg h
    have hrun := step_eq_ticks_straight hp hn hi (hbody ▸ straight_readImmediate act)
    rwa [hbody] at hrun
  · obtain ⟨hbytes, act, hbody⟩ := readShape_body s.cfg h
    rw [step_eq_ticks hp hn hi (hbody ▸ runsIn_readBody hbytes hplain act)]
    congr 2
    omega
  · obtain ⟨hstraight, hlen⟩ := writeShape_body s.cfg h
    rw [step_eq_ticks_straight hp hn hi hstraight, hlen]
    congr 2
    omega
  · obtain ⟨hstraight, hlen⟩ := modifyShape_body s.cfg h
    rw [step_eq_ticks_straight hp hn hi hstraight, hlen]
    congr 2
    omega
  · obtain ⟨hstraight, hlen⟩ := straight_of_fixedTicks s.cfg h
    rw [step_eq_ticks_straight hp hn hi hstraight, hlen]
  · intro target
    obtain ⟨cond, hbody, hcond⟩ := branchBody_of_condition s h
    rw [step_eq_ticks hp hn hi (hbody ▸ runsIn_branchBody hcond (peek_readAfter hplain _) rfl)]
    congr 2
    split
    · rfl
    · split <;> rfl

end Sys2Proof.Proofs.CycleCounts

/-! The host loop (rule R82) and the frame-complete signal: nothing a tick does depends on the signal, and a tick can raise
but not clear it; so the ticks `update` queries are the plain ticks with the signal taken. -/

namespace Sys2Proof.Proofs.FrameSignal

open Sys2Proof Sys2Proof.Machine Sys2Proof.Proofs.Cycles

/-- The machine with the signal at a given level. -/
def withSignal (b : Bool) (s : State) : State := { s with vic := { s.vic with frameComplete := b } }

theorem withSignal_self (s : State) : withSignal s.vic.frameComplete s = s := rfl

theorem withSignal_withSignal (b b' : Bool) (s : State) : withSignal b (withSignal b' s) = withSignal b s := rfl

theorem frameCompleteQuery_eq (s : State) : frameCompleteQuery s = (s.vic.frameComplete, withSignal false s) := rfl

/-! ### Nothing depends on the signal -/

/-- A part of a tick that neither reads nor changes the signal. -/
def Blind (f : State → State) : Prop := ∀ (b : Bool) (s : State), f (withSignal b s) = withSignal b (f s)

/-- A read that neither reads nor changes the signal. -/
def BlindRead (f : State → Byte × State) : Prop :=
  ∀ (b : Bool) (s : State), f (withSignal b s) = ((f s).1, withSignal b (f s).2)

theorem Blind.foldl {α : Type} {f : State → α → State} (h : ∀ a, Blind (fun s => f s a)) (as : List α) :
    Blind (fun s => as.foldl f s) := by
  intro b
  induction as with
  | nil => exact fun _ => rfl
  | cons a as ih =>
    intro s
    have ha : f (withSignal b s) a = withSignal b (f s a) := h a b s
    simp only [List.foldl_cons, ha]
    exact ih _

theorem blindRead_viaRead (id : ViaId) (r : BitVec 4) : BlindRead (viaRead id r) := by
  intro b s
  cases id <;> rfl

theorem blindRead_busRead (a : Addr) : BlindRead (busRead a) := by
  have hor (sel : Bool) {f : State → Byte × State} (hf : BlindRead f) (b : Bool) (x : Byte) (s : State) :
      orRead sel f (x, withSignal b s) = ((orRead sel f (x, s)).1, withSignal b (orRead sel f (x, s)).2) := by
    unfold orRead
    split
    · rw [hf b s]
    · rfl
  intro b s
  have hhandler : (withSignal b s).handler a = s.handler a := rfl
  unfold busRead
  rw [hhandler]
  cases s.handler a with
  | ram _ => rfl
  | rom _ => rfl
  | colour _ => rfl
  | vic _ => rfl
  | via id r => exact blindRead_viaRead id r b s
  | unconnected => rfl
  | composite chips r =>
    dsimp only
    rw [compositeRead, compositeRead, hor chips.vic (f := fun s => (vicRead r s, s)) (fun _ _ => rfl) b 0 s,
      hor chips.via1 (blindRead_viaRead .via1 r), hor chips.via2 (blindRead_viaRead .via2 r)]

theorem blind_vicWrite (r : BitVec 4) (x : Byte) : Blind (vicWrite r x) := by
  intro b s
  unfold vicWrite withSignal Vic.write
  dsimp only
  split <;> rfl

theorem blind_viaWrite (id : ViaId) (r : BitVec 4) (x : Byte) : Blind (viaWrite id r x) := by
  intro b s
  cases id <;> rfl

theorem blind_busWrite (a : Addr) (x : Byte) : Blind (busWrite a x) := by
  intro b s
  have hhandler : (withSignal b s).handler a = s.handler a := rfl
  unfold busWrite
  rw [hhandler]
  cases s.handler a with
  | ram _ => rfl
  | rom _ => rfl
  | colour _ => rfl
  | vic r => exact blind_vicWrite r x b s
  | via id r => exact blind_viaWrite id r x b s
  | unconnected => rfl
  | composite chips r =>
    have hif (sel : Bool) {f : State → State} (hf : Blind f) (u : State) :
        (if sel then f (withSignal b u) else withSignal b u) = withSignal b (if sel then f u else u) := by
      split
      · exact hf b u
      · rfl
    simp only [compositeWrite, hif _ (blind_vicWrite r x), hif _ (blind_viaWrite .via1 r x), hif _ (blind_viaWrite .via2 r x)]

theorem blind_trapAction : Blind trapAction := by
  have haccess : ∀ acc : BusAccess, Blind (fun s => callbackAccess s acc) := by
    intro acc b s
    cases acc with
    | read a => exact congrArg Prod.snd (blindRead_busRead a b s)
    | write a v => exact blind_busWrite a v b s
  intro b s
  have htrap : (withSignal b s).trapAt ((withSignal b s).cpu.pc - 1) = s.trapAt (s.cpu.pc - 1) := rfl
  unfold trapAction
  dsimp only
  rw [htrap]
  cases s.trapAt (s.cpu.pc - 1) with
  | none => rfl
  | some r =>
    have hfold := Blind.foldl haccess s.inputs.callbackRun.accesses b
      { s with hostCalls := .trapCallback r.callback (s.cpu.pc - 1) :: s.hostCalls }
    simp only [withSignal] at hfold ⊢
    rw [hfold]
    generalize List.foldl callbackAccess _ _ = u
    cases u.inputs.callbackRun.newPc <;> rfl

/-! ### The CPU's part of a tick -/

theorem Closing.blind {b : Bool} {fin : State → State} (h : Closing b fin) : Blind fin := by
  cases h with
  | id | advance | endInstr | endSequence => exact fun _ _ => rfl
  | trap => exact fun b s => congrArg endInstr (blind_trapAction b s)

theorem Made.blind {b : Bool} {cyc : Cycle} (h : Made b cyc) : Blind cyc := by
  induction h with
  | read hf addr eff =>
    intro b s
    have hread := blindRead_busRead (addr s.cpu) b s
    rw [readCycle, readCycle, ← Closing.blind hf b, ← show (withSignal b s).cpu = s.cpu from rfl] at *
    rw [hread]
    rfl
  | write hf addr out =>
    intro b s
    have hwrite := blind_busWrite (addr s.cpu) (out s.cpu).1 b s
    rw [writeCycle, writeCycle, ← Closing.blind hf b, ← show (withSignal b s).cpu = s.cpu from rfl] at *
    rw [hwrite]
    rfl
  | select f _ hcyc ih =>
    intro b s
    rw [hcyc, hcyc]
    exact ih s.cfg s.cpu b s

theorem fetchedInstr_withSignal (b : Bool) (s : State) : fetchedInstr (withSignal b s) = fetchedInstr s := by
  have hread := congrArg Prod.fst (blindRead_busRead s.cpu.pc b s)
  have htrap : (withSignal b s).trapAt s.cpu.pc = s.trapAt s.cpu.pc := rfl
  unfold fetchedInstr
  rw [show (withSignal b s).cpu = s.cpu from rfl, hread, htrap]
  rfl

theorem cycleAt_mem (cs : List Cycle) (t : Nat) : cycleAt cs t = id ∨ cycleAt cs t ∈ cs := by
  cases t with
  | zero => exact .inl rfl
  | succ t =>
    rw [cycleAt, List.getD_eq_getElem?_getD]
    cases h : cs[t]? with
    | none => exact .inl rfl
    | some cyc => exact .inr (List.mem_of_getElem? h)

theorem blind_cpuCycle : Blind cpuCycle := by
  intro b s
  unfold cpuCycle
  rw [show (withSignal b s).cpu = s.cpu from rfl, show (withSignal b s).cfg = s.cfg from rfl, fetchedInstr_withSignal]
  split
  · split
    · exact Made.blind (made_fetchCycle true _) b s
    · exact Made.blind (made_interruptStart _) b s
  · rcases cycleAt_mem (progCycles s.cfg s.cpu.prog) s.cpu.t with h | h
    · rw [h]; rfl
    · exact Made.blind (made_progCycles _ _ _ h) b s

/-! ### The tick -/

theorem drawGroup_withSignal (k : MachineCfg) (mem : Memory) (b : Bool) (v : Vic) :
    Vic.drawGroup k mem { v with frameComplete := b } = { v.drawGroup k mem with frameComplete := b } := by
  have hg : Vic.geometry k { v with frameComplete := b } = v.geometry k := rfl
  unfold Vic.drawGroup Vic.inRows Vic.fetchBitmap Vic.fetchCode Vic.cellPixels
  rw [hg]
  dsimp only
  split <;> split <;> split <;> rfl

theorem endLine_withSignal (g : Geometry) (b : Bool) (v : Vic) :
    Vic.endLine g { v with frameComplete := b } = { v.endLine g with frameComplete := b } := by
  have hrows : Vic.inRows g { v with frameComplete := b } = v.inRows g := rfl
  unfold Vic.endLine
  rw [hrows]
  dsimp only
  split
  · split <;> rfl
  · rfl

/-- The second half of a cycle raises the signal or leaves it. -/
theorem exists_advance_withSignal (k : MachineCfg) (v : Vic) :
    ∃ r : Bool, ∀ b : Bool,
      Vic.advance k { v with frameComplete := b } = { v.advance k with frameComplete := b || r } := by
  by_cases h : v.hcount + 4 = k.variant.totalWidth
  · by_cases hv : v.vcount + 1 = k.variant.totalHeight
    · refine ⟨true, fun b => ?_⟩
      rw [VideoCycle.advance_endFrame h hv, VideoCycle.advance_endFrame (v := { v with frameComplete := b }) h hv,
        Bool.or_true]
    · refine ⟨false, fun b => ?_⟩
      have hend := endLine_withSignal ({ v with cursor := v.cursor + 4, hcount := 0 }.geometry k) b
        { v with cursor := v.cursor + 4, hcount := 0 }
      obtain ⟨d, r, he⟩ := VideoCycle.endLine_eq ({ v with cursor := v.cursor + 4, hcount := 0 }.geometry k)
        { v with cursor := v.cursor + 4, hcount := 0 }
      rw [he] at hend
      rw [Bool.or_false, Vic.advance, Vic.advance]
      dsimp only
      rw [if_pos h, if_pos h, he, if_neg hv]
      exact (congrArg (fun w : Vic => if w.vcount + 1 = k.variant.totalHeight then
        { w with vcount := w.vcount + 1 }.endFrame else { w with vcount := w.vcount + 1 }) hend).trans (if_neg hv)
  · refine ⟨false, fun b => ?_⟩
    rw [VideoCycle.advance_inLine h, VideoCycle.advance_inLine (v := { v with frameComplete := b }) h, Bool.or_false]

theorem exists_beforeCpu_withSignal (s : State) :
    ∃ r : Bool, ∀ b : Bool, beforeCpu (withSignal b s) = withSignal (b || r) (beforeCpu s) := by
  have hdraw (b : Bool) : drawInputs (withSignal b s) = withSignal b (drawInputs s) := by
    unfold drawInputs
    cases hs : s.script <;> simp only [withSignal, hs]
  obtain ⟨r, hr⟩ := exists_advance_withSignal (drawInputs s).cfg
    ((drawInputs s).vic.drawGroup (drawInputs s).cfg (drawInputs s).mem)
  refine ⟨r, fun b => ?_⟩
  rw [beforeCpu, hdraw, vicCycle, beforeCpu, vicCycle]
  have hcycle := (congrArg (Vic.advance (drawInputs s).cfg) (drawGroup_withSignal (drawInputs s).cfg (drawInputs s).mem b
    (drawInputs s).vic)).trans (hr b)
  exact congrArg (fun v : Vic => { drawInputs s with vic := v }) hcycle

/-- A tick raises the signal or leaves it, and nothing else depends on it. -/
theorem exists_tick_withSignal (s : State) :
    ∃ r : Bool, ∀ b : Bool, tick (withSignal b s) = withSignal (b || r) (tick s) := by
  obtain ⟨r, hr⟩ := exists_beforeCpu_withSignal s
  refine ⟨r, fun b => ?_⟩
  rw [tick, tickWith_eq, hr, blind_cpuCycle, tick, tickWith_eq]
  rfl

theorem signal_tick_withSignal (b : Bool) (s : State) :
    (tick (withSignal b s)).vic.frameComplete = (b || (tick (withSignal false s)).vic.frameComplete) := by
  obtain ⟨r, hr⟩ := exists_tick_withSignal s
  rw [hr, hr, Bool.false_or]
  rfl

theorem withSignal_tick_withSignal (b b' : Bool) (s : State) :
    withSignal b (tick (withSignal b' s)) = withSignal b (tick s) := by
  obtain ⟨r, hr⟩ := exists_tick_withSignal s
  rw [hr, withSignal_withSignal]

/-! ### Queried and plain ticks -/

theorem ticks_succ (n : Nat) (s : State) : ticks (n + 1) s = tick (ticks n s) := by
  induction n generalizing s with
  | zero => rfl
  | succ n ih => exact ih (tick s)

theorem queriedTicks_succ (n : Nat) (s : State) : queriedTicks (n + 1) s = queriedTicks n (withSignal false (tick s)) := by
  induction n generalizing s with
  | zero => rfl
  | succ n ih => exact congrArg (fun u => (frameCompleteQuery (tick u)).2) (ih s)

/-- Whether the query after tick `j + 1` answers true. -/
def Answers (j : Nat) (s : State) : Prop := (frameCompleteQuery (tick (queriedTicks j s))).1 = true

theorem queriedTicks_eq (n : Nat) (s : State) : queriedTicks (n + 1) s = withSignal false (ticks (n + 1) s) := by
  induction n with
  | zero => rfl
  | succ n ih =>
    calc queriedTicks (n + 2) s = withSignal false (tick (queriedTicks (n + 1) s)) := rfl
      _ = withSignal false (ticks (n + 2) s) := by rw [ih, withSignal_tick_withSignal, ticks_succ (n + 1)]

/-- Some query answers true exactly if the plain ticks leave the signal up. -/
theorem exists_answers_iff (n : Nat) (s : State) :
    (∃ j : Nat, j < n ∧ Answers j s) ↔ 0 < n ∧ (ticks n s).vic.frameComplete = true := by
  induction n with
  | zero => simp
  | succ n ih =>
    rw [Nat.exists_lt_succ_right, ih]
    cases n with
    | zero => simp [Answers, ticks, queriedTicks, frameCompleteQuery_eq]
    | succ n =>
      have hsignal := signal_tick_withSignal (ticks (n + 1) s).vic.frameComplete (ticks (n + 1) s)
      rw [withSignal_self, ← queriedTicks_eq] at hsignal
      rw [ticks_succ (n + 1), hsignal, Bool.or_eq_true]
      simp [Answers, frameCompleteQuery_eq]

theorem runQueried_eq (n : Nat) (s : State) :
    ((runQueried n s).1 = true ↔ ∃ j : Nat, j < n ∧ Answers j s) ∧ (runQueried n s).2 = queriedTicks n s := by
  induction n generalizing s with
  | zero => simp [runQueried, queriedTicks]
  | succ n ih =>
    obtain ⟨hany, hleft⟩ := ih (withSignal false (tick s))
    rw [queriedTicks_succ]
    refine ⟨?_, hleft⟩
    rw [runQueried, Bool.or_eq_true, frameCompleteQuery_eq, hany, Nat.exists_lt_succ_left]
    simp only [Answers, queriedTicks_succ]
    rfl

/-! ### The rounding -/

theorem updateCycles_of_nonpos (v : Variant) {num : Int} (den : Nat) (hden : 0 < den) (h : num ≤ 0) :
    updateCycles v num den = 0 := by
  have hprod : num * v.cyclesPerSecond ≤ 0 := Int.mul_nonpos_of_nonpos_of_nonneg h (Int.natCast_nonneg _)
  rw [updateCycles, Int.toNat_eq_zero]
  refine Int.le_of_lt_add_one (Int.ediv_lt_of_lt_mul (by omega) ?_)
  rw [Int.mul_assoc]
  omega

theorem updateCycles_rounds (v : Variant) {num : Int} (den : Nat) (hden : 0 < den) (h : 0 < num) :
    (2 * den : Int) * updateCycles v num den ≤ 2 * num * v.cyclesPerSecond + den ∧
      2 * num * v.cyclesPerSecond + den < (2 * den : Int) * (updateCycles v num den + 1) := by
  have hprod : 0 ≤ num * v.cyclesPerSecond := Int.mul_nonneg (by omega) (Int.natCast_nonneg _)
  have hpos : 0 ≤ (2 * num * v.cyclesPerSecond + den) / (2 * den : Int) :=
    Int.ediv_nonneg (by rw [Int.mul_assoc]; omega) (by omega)
  rw [updateCycles, Int.toNat_of_nonneg hpos]
  exact ⟨Int.mul_ediv_self_le (by omega), by rw [Int.mul_add, Int.mul_one]; exact Int.lt_mul_ediv_self_add (by omega)⟩

/-- Settles O59. -/
theorem updateRunsRoundedTicks : Obligations.UpdateRunsRoundedTicks := by
  intro s num den hden n plain
  obtain ⟨hany, hleft⟩ := runQueried_eq n s
  refine ⟨updateCycles_of_nonpos _ den hden, updateCycles_rounds _ den hden, hany, hany.trans (exists_answers_iff n s), hleft,
    hleft.trans ?_⟩
  cases hn : n with
  | zero => rfl
  | succ m =>
    rw [if_neg (by omega), queriedTicks_eq, ← hn]
    rfl

end Sys2Proof.Proofs.FrameSignal

/-! The trap table (rules R119, R455) and the setter of the non-maskable line (rule R505). -/

namespace Sys2Proof.Proofs.Traps

open Sys2Proof Sys2Proof.Machine

/-! ### The non-maskable line -/

/-- Settles O39, by induction on the levels. -/
theorem nmiIsEdgeTriggered : Obligations.NmiIsEdgeTriggered := by
  intro l levels
  induction levels generalizing l with
  | nil => simp
  | cons b levels ih =>
    have hzip : (l.nmiLevel :: b :: levels).zip (b :: levels) = (l.nmiLevel, b) :: (b :: levels).zip levels := rfl
    rw [List.foldl_cons, ih, hzip, List.any_cons, ← Bool.or_assoc, Bool.and_comm]
    rfl

/-! ### The trap table -/

theorem trapAt_eq_none {s : State} {a : Addr} : s.trapAt a = none ↔ ∀ e ∈ s.traps, e.1 ≠ a := by
  rw [State.trapAt]
  cases h : s.traps.find? (fun e => e.1 == a) with
  | none => simpa using h
  | some e =>
    have he := List.find?_some h
    simp only [beq_iff_eq] at he
    simpa using ⟨e.2, he ▸ List.mem_of_find?_eq_some h⟩

theorem trapAt_cons (s : State) (a b : Addr) (r : TrapRecord) (rest : List (Addr × TrapRecord)) (m : Memory) :
    State.trapAt { s with traps := (a, r) :: rest, mem := m } b =
      if a = b then some r else State.trapAt { s with traps := rest } b := by
  rw [State.trapAt, State.trapAt, List.find?_cons]
  by_cases h : a = b
  · rw [if_pos h, h, beq_self_eq_true]
  · rw [if_neg h, beq_eq_false_iff_ne.mpr h]

/-- Where no entry is for an address, dropping the entries for it drops nothing. -/
theorem filter_traps {s : State} {a : Addr} (h : s.trapAt a = none) : s.traps.filter (fun e => e.1 != a) = s.traps :=
  List.filter_eq_self.mpr (fun e he => by simpa using trapAt_eq_none.mp h e he)

theorem registerTrap_new {s : State} {a : Addr} (h : s.trapAt a = none) (cb : Nat) :
    registerTrap a cb s =
      { s with
        traps := (a, { saved := rawRead s.mem a, callback := cb }) :: s.traps
        mem := rawWrite s.mem a s.cfg.trapOpcode } := by
  rw [registerTrap, h]
  rfl

theorem registerTrap_again {s : State} {a : Addr} {r : TrapRecord} (h : s.trapAt a = some r) (cb : Nat) :
    registerTrap a cb s =
      { s with traps := (a, { saved := r.saved, callback := cb }) :: s.traps.filter (fun e => e.1 != a) } := by
  rw [registerTrap, h]

theorem removeTrap_registered {s : State} {a : Addr} {r : TrapRecord} (h : s.trapAt a = some r) :
    removeTrap a s = { s with traps := s.traps.filter (fun e => e.1 != a), mem := rawWrite s.mem a r.saved } := by
  rw [removeTrap, h]
  rfl

theorem sparse_read_cons {w : Nat} (e : Nat × BitVec w) (rest : Sparse w) (i : Nat) :
    Sparse.read (e :: rest) i = if e.1 = i then e.2 else Sparse.read rest i := rfl

/-- Arrays in the canonical form are equal if they read alike. -/
theorem sparse_ext {w : Nat} {size : Nat} {m m' : Sparse w} (hm : Sparse.wf size m = true) (hm' : Sparse.wf size m' = true)
    (h : ∀ i, Sparse.read m i = Sparse.read m' i) : m = m' := by
  induction m generalizing m' with
  | nil =>
    cases m' with
    | nil => rfl
    | cons e rest =>
      have he := h e.1
      rw [sparse_read_cons, if_pos rfl] at he
      exact absurd he.symm (Sparse.wf_cons.mp hm').1
  | cons e rest ih =>
    obtain ⟨hv, -, habove, hrest⟩ := Sparse.wf_cons.mp hm
    cases m' with
    | nil =>
      have he := h e.1
      rw [sparse_read_cons, if_pos rfl] at he
      exact absurd he hv
    | cons e' rest' =>
      obtain ⟨hv', -, habove', hrest'⟩ := Sparse.wf_cons.mp hm'
      have hkey : e.1 = e'.1 := by
        rcases Nat.lt_trichotomy e.1 e'.1 with hlt | heq | hgt
        · have he := h e.1
          rw [sparse_read_cons, if_pos rfl, sparse_read_cons, if_neg (by omega), Sparse.read_above habove' (by omega)] at he
          exact absurd he hv
        · exact heq
        · have he := h e'.1
          rw [sparse_read_cons, if_neg (by omega), Sparse.read_above habove (by omega), sparse_read_cons, if_pos rfl] at he
          exact absurd he.symm hv'
      have hval : e.2 = e'.2 := by
        have he := h e.1
        rwa [sparse_read_cons, if_pos rfl, sparse_read_cons, if_pos hkey.symm] at he
      have htail : rest = rest' := by
        refine ih hrest hrest' (fun i => ?_)
        by_cases hi : i = e.1
        · rw [Sparse.read_above habove (by omega), Sparse.read_above habove' (by omega)]
        · have he := h i
          rwa [sparse_read_cons, if_neg (by omega), sparse_read_cons, if_neg (by omega)] at he
      rw [htail, Prod.ext hkey hval]

theorem rawWrite_rawWrite_rawRead {m : Memory} (hw : m.wf = true) (a : Addr) (v : Byte) :
    rawWrite (rawWrite m a v) a (rawRead m a) = m := by
  have hv := rawWrite_wf hw a v
  refine sparse_ext (size := 65536) (rawWrite_wf hv a _) hw (fun i => ?_)
  by_cases h : i = a.toNat
  · rw [h]; exact rawRead_rawWrite_same hv a _
  · exact (Sparse.read_write_other _ _ h).trans (Sparse.read_write_other m v h)

/-- Settles O16. -/
theorem trapRegistration : Obligations.TrapRegistration := by
  intro s a cb cb' hw hfree
  have hfirst := registerTrap_new hfree cb
  have hentry : (registerTrap a cb s).trapAt a = some { saved := rawRead s.mem a, callback := cb } := by
    rw [hfirst, trapAt_cons, if_pos rfl]
  have hsecond := registerTrap_again hentry cb'
  have htable : (registerTrap a cb s).traps.filter (fun e => e.1 != a) = s.traps := by
    rw [hfirst, List.filter_cons_of_neg (by simp), filter_traps hfree]
  rw [htable] at hsecond
  have hentry' : (registerTrap a cb' (registerTrap a cb s)).trapAt a =
      some { saved := rawRead s.mem a, callback := cb' } := by
    rw [hsecond, trapAt_cons, if_pos rfl]
  have hremoved : removeTrap a (registerTrap a cb' (registerTrap a cb s)) = s := by
    rw [removeTrap_registered hentry', hsecond, hfirst]
    dsimp only
    rw [List.filter_cons_of_neg (by simp), filter_traps hfree, rawWrite_rawWrite_rawRead hw]
  refine ⟨?_, hentry, hentry', fun b hb => ⟨?_, ?_⟩, congrArg State.mem hremoved, congrArg State.traps hremoved, hremoved⟩
  · rw [hfirst]; exact rawRead_rawWrite_same hw a _
  · rw [hfirst, trapAt_cons, if_neg (Ne.symm hb)]
  · rw [hfirst]; exact rawRead_rawWrite_other _ _ hb

end Sys2Proof.Proofs.Traps

/-! The bus: the address map of the construction (rules R130, R134), the mirrors of `map` (rule R118), and the handlers that
are not RAM (rules R114 to R117). -/

namespace Sys2Proof.Proofs.Bus

open Sys2Proof Sys2Proof.Machine

/-! ### The address map -/

theorem regIndex_eq (a : Addr) : regIndex a = BitVec.ofNat 4 (a.toNat % 16) := by
  apply BitVec.eq_of_toNat_eq
  simp [regIndex]

section Ranges

variable (k : MachineCfg) {a : Addr}

theorem baseHandler_ram (h : a.toNat < 0x0400 ∨ (0x1000 ≤ a.toNat ∧ a.toNat < 0x2000)) : baseHandler k a = .ram a := by
  rw [baseHandler]
  rcases h with h | h <;> simp (disch := omega) only [if_pos, if_neg]

theorem baseHandler_rom (h : (0x8000 ≤ a.toNat ∧ a.toNat < 0x9000) ∨ 0xC000 ≤ a.toNat) : baseHandler k a = .rom a := by
  rw [baseHandler]
  rcases h with h | h <;> simp (disch := omega) only [if_pos, if_neg]

theorem baseHandler_vic (h : 0x9000 ≤ a.toNat ∧ a.toNat < 0x9010) : baseHandler k a = .vic (regIndex a) := by
  rw [baseHandler]
  simp (disch := omega) only [if_pos, if_neg]

theorem baseHandler_via1 (h : 0x9110 ≤ a.toNat ∧ a.toNat < 0x9120) : baseHandler k a = .via .via1 (regIndex a) := by
  rw [baseHandler]
  simp (disch := omega) only [if_pos, if_neg]

theorem baseHandler_via2 (h : 0x9120 ≤ a.toNat ∧ a.toNat < 0x9130) : baseHandler k a = .via .via2 (regIndex a) := by
  rw [baseHandler]
  simp (disch := omega) only [if_pos, if_neg]

theorem baseHandler_ioDecode (h : (0x9010 ≤ a.toNat ∧ a.toNat < 0x9110) ∨ (0x9130 ≤ a.toNat ∧ a.toNat < 0x9400)) :
    baseHandler k a = aliasHandler (ioDecodeAt k a) a := by
  rw [baseHandler]
  rcases h with h | h <;> simp (disch := omega) only [if_pos, if_neg]

theorem baseHandler_colour (h : 0x9400 ≤ a.toNat ∧ a.toNat < 0x9800) : baseHandler k a = .colour a := by
  rw [baseHandler]
  simp (disch := omega) only [if_pos, if_neg]

theorem baseHandler_gap (h : 0x9800 ≤ a.toNat ∧ a.toNat < 0xA000) : baseHandler k a = .unconnected := by
  rw [baseHandler]
  simp (disch := omega) only [if_pos, if_neg]

theorem baseHandler_cartRom (hk : k.mem.cart = .rom) (h : 0xA000 ≤ a.toNat ∧ a.toNat < 0xC000) :
    baseHandler k a = .rom a := by
  rw [baseHandler]
  simp (disch := omega) only [if_pos, if_neg, hk]

theorem baseHandler_noCart (hk : k.mem.cart = .unconnected) (h : 0xA000 ≤ a.toNat ∧ a.toNat < 0xC000) :
    baseHandler k a = .unconnected := by
  rw [baseHandler]
  simp (disch := omega) only [if_pos, if_neg, hk]

/-- The optional blocks of the unexpanded machine are absent. -/
theorem baseHandler_unexpanded (hk : k.mem = MemConfig.unexpanded)
    (h : (0x0400 ≤ a.toNat ∧ a.toNat < 0x1000) ∨ (0x2000 ≤ a.toNat ∧ a.toNat < 0x8000)) :
    baseHandler k a = .unconnected := by
  rw [baseHandler]
  simp only [hk, MemConfig.unexpanded, optionalRam, Bool.false_eq_true, if_false]
  rcases h with h | h
  · simp (disch := omega) only [if_neg, if_pos (show a.toNat < 0x1000 by omega), ite_self]
  · simp (disch := omega) only [if_neg, if_pos (show a.toNat < 0x8000 by omega), ite_self]

end Ranges

/-- The first entry of IO_DECODE for an address counts. -/
theorem ioDecodeAt_first {k : MachineCfg} {a : Addr} {before after : List (Nat × ChipSet)} {chips : ChipSet}
    (hk : k.ioDecode = before ++ (a.toNat, chips) :: after) (hb : ∀ e ∈ before, e.1 ≠ a.toNat) :
    ioDecodeAt k a = chips := by
  have hnone : before.find? (fun e => e.1 == a.toNat) = none := by simpa using hb
  rw [ioDecodeAt, hk, List.find?_append, hnone, Option.none_or, List.find?_cons_of_pos (by simp)]

theorem aliasHandler_unlisted {k : MachineCfg} {a : Addr} (h : ∀ e ∈ k.ioDecode, e.1 ≠ a.toNat) :
    aliasHandler (ioDecodeAt k a) a = .unconnected := by
  have hnone : k.ioDecode.find? (fun e => e.1 == a.toNat) = none := by simpa using h
  rw [ioDecodeAt, hnone]
  rfl

/-- The handler of an IO_DECODE address by how many chips it selects. -/
theorem aliasHandler_eq (chips : ChipSet) (a : Addr) :
    let selected := [chips.vic, chips.via1, chips.via2].count true
    (selected = 0 → aliasHandler chips a = .unconnected) ∧
      (selected = 1 →
        (chips.vic = true → aliasHandler chips a = .vic (regIndex a)) ∧
          (chips.via1 = true → aliasHandler chips a = .via .via1 (regIndex a)) ∧
          (chips.via2 = true → aliasHandler chips a = .via .via2 (regIndex a))) ∧
      (2 ≤ selected → aliasHandler chips a = .composite chips (regIndex a)) := by
  obtain ⟨vic, via1, via2⟩ := chips
  cases vic <;> cases via1 <;> cases via2 <;> simp [aliasHandler]

/-- Settles O14, range by range. -/
theorem unexpandedMap : Obligations.UnexpandedMap := by
  intro k a hk
  refine ⟨baseHandler_ram k, fun h => ?_, baseHandler_rom k, baseHandler_vic k, baseHandler_via1 k, baseHandler_via2 k,
    baseHandler_colour k, fun h => ?_⟩
  · rcases h with h | h | h
    · exact baseHandler_unexpanded k hk (.inl h)
    · exact baseHandler_unexpanded k hk (.inr h)
    · by_cases hgap : a.toNat < 0xA000
      · exact baseHandler_gap k ⟨h.1, hgap⟩
      · exact baseHandler_noCart k (by rw [hk]; rfl) (by omega)
  · rw [baseHandler_ioDecode k h, ← regIndex_eq]
    refine ⟨fun before after chips hdecode hbefore => ?_, aliasHandler_unlisted⟩
    rw [ioDecodeAt_first hdecode hbefore]
    exact aliasHandler_eq chips a

/-! ### Handlers -/

theorem busRead_composite {s : State} {a : Addr} {chips : ChipSet} {r : BitVec 4} (h : s.handler a = .composite chips r) :
    busRead a s = compositeRead chips r s := by rw [busRead, h]

theorem busWrite_composite {s : State} {a : Addr} {chips : ChipSet} {r : BitVec 4} (h : s.handler a = .composite chips r)
    (x : Byte) : busWrite a x s = compositeWrite chips r x s := by rw [busWrite, h]

/-- A composite read: the OR of the selected chips' values, VIA1's side effects before VIA2's. -/
theorem compositeRead_eq (chips : ChipSet) (r : BitVec 4) (s : State) :
    let u := if chips.via1 then (viaRead .via1 r s).2 else s
    compositeRead chips r s =
      ((if chips.vic then s.vic.read s.inputs r else 0) |||
          (if chips.via1 then s.via1.readValue s.inputs.via1 r else 0) |||
          (if chips.via2 then s.via2.readValue s.inputs.via2 r else 0),
        if chips.via2 then (viaRead .via2 r u).2 else u) := by
  obtain ⟨vic, via1, via2⟩ := chips
  cases vic <;> cases via1 <;> cases via2 <;>
    simp [compositeRead, orRead, vicRead, viaRead, State.via, HostInputs.chip, State.updateVia, State.setVia]

/-- What a composite write leaves in each chip. -/
theorem compositeWrite_chips (chips : ChipSet) (r : BitVec 4) (x : Byte) (s : State) :
    (compositeWrite chips r x s).vic = (if chips.vic then s.vic.write r x else s.vic) ∧
      (compositeWrite chips r x s).via1 = (if chips.via1 then s.via1.write r x else s.via1) ∧
      (compositeWrite chips r x s).via2 = (if chips.via2 then s.via2.write r x else s.via2) := by
  obtain ⟨vic, via1, via2⟩ := chips
  cases vic <;> cases via1 <;> cases via2 <;> exact ⟨rfl, rfl, rfl⟩

/-- A byte written to colour RAM reads back its low four bits, the upper four floating. -/
theorem colourRead_rawWrite {m : Memory} (hw : m.wf = true) (k : MachineCfg) (c : Addr) (x : Byte) :
    colourRead k (rawWrite m c (x &&& 0x0F)) c = (x &&& 0x0F) ||| (k.float &&& 0xF0) := by
  rw [colourRead, rawRead_rawWrite_same hw, BitVec.and_assoc, BitVec.and_self]

/-- Settles O13, handler by handler. -/
theorem handlerAccesses : Obligations.HandlerAccesses := by
  intro s a b c r x chips hw
  refine ⟨fun h => ?_, fun h => ?_, fun ha hb => ?_, fun h => ?_⟩
  · exact ⟨by rw [busWrite, h], by rw [busRead, h]⟩
  · exact ⟨by rw [busWrite, h], by rw [busRead, h]⟩
  · have hwrite : busWrite a x s = { s with mem := rawWrite s.mem c (x &&& 0x0F) } := by rw [busWrite, ha]
    have hhandler : State.handler { s with mem := rawWrite s.mem c (x &&& 0x0F) } b = .colour c := hb
    rw [hwrite, State.peek, busRead, hhandler]
    exact ⟨colourRead_rawWrite hw s.cfg c x, fun d hd => rawRead_rawWrite_other s.mem _ hd⟩
  · obtain ⟨hvic, hvia1, hvia2⟩ := compositeWrite_chips chips r x s
    rw [busRead_composite h, busWrite_composite h]
    exact ⟨compositeRead_eq chips r s, rfl, hvic, hvia1, hvia2, compositeWrite_mem chips r x s⟩

end Sys2Proof.Proofs.Bus

/-! `map` (rule R118): the mirrors of a range are those by the submasks of the mirror mask, tried the greatest first; so an
address gets the mirror by the greatest value that covers it. -/

namespace Sys2Proof.Proofs.Mirrors

open Sys2Proof Sys2Proof.Machine

/-! ### The submasks -/

theorem getLsbD_bit {n : Nat} (hn : n < 16) (i : Nat) : (1#16 <<< n).getLsbD i = decide (i = n) := by
  rw [BitVec.getLsbD_shiftLeft, BitVec.getLsbD_one]
  by_cases h : i = n
  · simp [h, hn]
  · simp [h]
    omega

/-- The values of the list: the set bits are set in the mask and below `n`. -/
theorem mem_subMasks {mask : Addr} {n : Nat} (hn : n ≤ 16) {m : Addr} :
    m ∈ subMasks mask n ↔ ∀ i, m.getLsbD i = true → mask.getLsbD i = true ∧ i < n := by
  induction n generalizing m with
  | zero =>
    rw [subMasks, List.mem_singleton]
    refine ⟨fun h i hi => by simp [h] at hi, fun h => BitVec.eq_of_getLsbD_eq fun i _ => ?_⟩
    cases hi : m.getLsbD i with
    | false => simp
    | true => exact absurd (h i hi).2 (Nat.not_lt_zero i)
  | succ n ih =>
    have ih {m : Addr} := ih (m := m) (by omega)
    rw [subMasks]
    split
    next hmask =>
      rw [List.mem_append, List.mem_map]
      constructor
      · rintro (⟨low, hlow, rfl⟩ | hm)
        · intro i hi
          rw [BitVec.getLsbD_or, getLsbD_bit (by omega), Bool.or_eq_true, decide_eq_true_eq] at hi
          rcases hi with hi | rfl
          · obtain ⟨hset, hlt⟩ := ih.mp hlow i hi
            exact ⟨hset, by omega⟩
          · exact ⟨hmask, by omega⟩
        · exact fun i hi => ⟨(ih.mp hm i hi).1, Nat.lt_succ_of_lt (ih.mp hm i hi).2⟩
      · intro h
        cases hm : m.getLsbD n with
        | false =>
          refine .inr (ih.mpr fun i hi => ⟨(h i hi).1, ?_⟩)
          have hne : i ≠ n := by rintro rfl; rw [hm] at hi; nomatch hi
          have := (h i hi).2
          omega
        | true =>
          refine .inl ⟨m &&& ~~~(1#16 <<< n), ih.mpr fun i hi => ?_, BitVec.eq_of_getLsbD_eq fun i hi => ?_⟩
          · have hi' : i < 16 := BitVec.lt_of_getLsbD hi
            rw [BitVec.getLsbD_and, BitVec.getLsbD_not, getLsbD_bit (by omega)] at hi
            simp only [hi', decide_true, Bool.true_and, Bool.and_eq_true, Bool.not_eq_true', decide_eq_false_iff_not] at hi
            obtain ⟨hset, hlt⟩ := h i hi.1
            exact ⟨hset, by omega⟩
          · rw [BitVec.getLsbD_or, BitVec.getLsbD_and, BitVec.getLsbD_not, getLsbD_bit (by omega)]
            by_cases hin : i = n
            · simp [hin, hm]
            · simp [hin, hi]
    next hmask =>
      rw [ih]
      refine forall₂_congr fun i hi => and_congr_right fun hi' => ?_
      have : i ≠ n := by rintro rfl; exact hmask hi'
      omega

theorem subMasks_lt {mask : Addr} {n : Nat} (hn : n ≤ 16) {m : Addr} (h : m ∈ subMasks mask n) : m.toNat < 2 ^ n := by
  refine Nat.lt_pow_two_of_testBit _ fun i hi => ?_
  rw [← Bool.not_eq_true]
  intro hbit
  have := ((mem_subMasks hn).mp h i hbit).2
  omega

theorem toNat_or_bit {n : Nat} (hn : n < 16) {m : Addr} (h : m.toNat < 2 ^ n) :
    (m ||| 1#16 <<< n).toNat = m.toNat + 2 ^ n := by
  have hbit : (1#16 <<< n).toNat = 2 ^ n := by
    rw [BitVec.toNat_shiftLeft, BitVec.toNat_one (by omega), Nat.one_shiftLeft,
      Nat.mod_eq_of_lt (Nat.pow_lt_pow_right (by omega) hn)]
  have hor := Nat.two_pow_add_eq_or_of_lt h 1
  rw [Nat.mul_one] at hor
  rw [BitVec.toNat_or, hbit, Nat.or_comm, ← hor, Nat.add_comm]

/-- The list is strictly falling. -/
theorem pairwise_subMasks (mask : Addr) {n : Nat} (hn : n ≤ 16) : (subMasks mask n).Pairwise (fun m m' => m' < m) := by
  induction n with
  | zero => simp [subMasks]
  | succ n ih =>
    have ih := ih (by omega)
    rw [subMasks]
    split
    next =>
      refine List.pairwise_append.mpr ⟨List.pairwise_map.mpr (ih.imp_of_mem fun h h' hlt => ?_), ih, fun m hm m' hm' => ?_⟩
      · rw [BitVec.lt_def, toNat_or_bit (by omega) (subMasks_lt (by omega) h),
          toNat_or_bit (by omega) (subMasks_lt (by omega) h')]
        exact Nat.add_lt_add_right hlt _
      · obtain ⟨low, hlow, rfl⟩ := List.mem_map.mp hm
        have hlt := subMasks_lt (by omega) hm'
        rw [BitVec.lt_def, toNat_or_bit (by omega) (subMasks_lt (by omega) hlow)]
        omega
    next => exact ih

/-- In a falling list the first element with a property is the greatest one with it. -/
theorem find?_eq_greatest {l : List Addr} (hl : l.Pairwise (fun m m' => m' < m)) {p : Addr → Bool} {m : Addr} (hm : m ∈ l)
    (hp : p m = true) (hmax : ∀ m' ∈ l, p m' = true → m' ≤ m) : l.find? p = some m := by
  induction l with
  | nil => nomatch hm
  | cons x rest ih =>
    obtain ⟨hx, hrest⟩ := List.pairwise_cons.mp hl
    rcases List.mem_cons.mp hm with rfl | hm
    · exact List.find?_cons_of_pos hp
    · cases hpx : p x with
      | true => exact absurd (hmax x List.mem_cons_self hpx) (BitVec.not_le.mpr (hx m hm))
      | false =>
        rw [List.find?_cons_of_neg (by simp [hpx])]
        exact ih hrest hm fun m' hm' => hmax m' (List.mem_cons_of_mem x hm')

/-! ### The handler of a mirrored address -/

/-- The mirror by `m` of the entry's range covers the address `b`. -/
def Covers (e : MapEntry) (m b : Addr) : Prop := m &&& ~~~e.mirrorMask = 0 ∧ e.start ≤ b - m ∧ b - m ≤ e.stop

theorem mem_subMasks_mirrorMask {mask m : Addr} : m ∈ subMasks mask 16 ↔ m &&& ~~~mask = 0 := by
  rw [mem_subMasks (Nat.le_refl 16)]
  constructor
  · intro h
    refine BitVec.eq_of_getLsbD_eq fun i hi => ?_
    cases hm : m.getLsbD i with
    | false => simp [hm]
    | true => simp [hm, (h i hm).1]
  · intro h i hm
    have hi : i < 16 := BitVec.lt_of_getLsbD hm
    have hbit := congrArg (fun x => x.getLsbD i) h
    exact ⟨by simpa [hm, hi] using hbit, hi⟩

theorem target_of_covers {e : MapEntry} {m b : Addr} (h : Covers e m b) (hmax : ∀ m', Covers e m' b → m' ≤ m) :
    e.target b = some (e.bound (b - m)) := by
  obtain ⟨hmask, hrange⟩ := h
  have hfind := find?_eq_greatest (pairwise_subMasks e.mirrorMask (Nat.le_refl 16))
    (p := fun m => decide (e.start ≤ b - m ∧ b - m ≤ e.stop)) (mem_subMasks_mirrorMask.mpr hmask) (decide_eq_true hrange)
    (fun m' hm' hp => hmax m' ⟨mem_subMasks_mirrorMask.mp hm', of_decide_eq_true hp⟩)
  rw [MapEntry.target, hfind]

theorem target_of_not_covers {e : MapEntry} {b : Addr} (h : ∀ m, ¬Covers e m b) : e.target b = none := by
  have hfind : (subMasks e.mirrorMask 16).find? (fun m => decide (e.start ≤ b - m ∧ b - m ≤ e.stop)) = none := by
    refine List.find?_eq_none.mpr fun m hm hp => h m ⟨mem_subMasks_mirrorMask.mp hm, of_decide_eq_true hp⟩
  rw [MapEntry.target, hfind]

theorem handler_of_target {s : State} {e : MapEntry} {data : List Byte} {b : Addr} {h : Handler} (ht : e.target b = some h) :
    (mapChip e data s).handler b = h := by
  rw [State.handler, mapChip, List.findSome?_cons, ht]

theorem handler_of_no_target {s : State} {e : MapEntry} {data : List Byte} {b : Addr} (ht : e.target b = none) :
    (mapChip e data s).handler b = s.handler b := by
  rw [State.handler, mapChip, List.findSome?_cons, ht, State.handler]

/-- What the entry binds for an address of its range. -/
theorem bound_eq {e : MapEntry} {a : Addr} (h : e.start ≤ a) :
    e.bound a =
      (match e.chip with
        | .ram => .ram a
        | .rom => .rom a
        | .colour => .colour a
        | .vic => .vic (BitVec.ofNat 4 ((a.toNat - e.start.toNat) % 16))
        | .via id => .via id (BitVec.ofNat 4 ((a.toNat - e.start.toNat) % 16))
        | .unconnected => .unconnected) := by
  have hreg : regIndex (a - e.start) = BitVec.ofNat 4 ((a.toNat - e.start.toNat) % 16) := by
    rw [Bus.regIndex_eq, BitVec.toNat_sub_of_le h]
  unfold MapEntry.bound
  cases e.chip with
  | vic => exact congrArg Handler.vic hreg
  | via id => exact congrArg (Handler.via id) hreg
  | ram | rom | colour | unconnected => rfl

/-- Settles O15. -/
theorem mapMirrors : Obligations.MapMirrors := by
  intro s e data t covers
  refine ⟨fun a m hcov hmax => ?_, fun b hb => handler_of_no_target (target_of_not_covers hb), ?_, fun hw hlen b => ?_⟩
  · have ha : a + m - m = a := by bv_omega
    have htarget := target_of_covers hcov hmax
    obtain ⟨-, hstart, -⟩ := hcov
    rw [ha] at htarget hstart
    exact (handler_of_target htarget).trans (bound_eq hstart)
  · rintro rfl
    exact congrArg (rawWriteBytes s.mem e.start) List.take_nil
  · have hstop := e.stop.isLt
    have htake : data.take (e.stop.toNat + 1 - e.start.toNat) = data := List.take_of_length_le (by omega)
    have hmem : t.mem = rawWriteBytes s.mem e.start data := congrArg (rawWriteBytes s.mem e.start) htake
    rw [hmem, rawRead_rawWriteBytes hw e.start (by omega)]
    simp only [BitVec.le_def]
    congr 1
    apply propext
    omega

end Sys2Proof.Proofs.Mirrors

/-! Construction of a machine (rules R132, R801, R802, R811, R812): what reset and a program load leave in the registers, in
memory and in the handler array. -/

namespace Sys2Proof.Proofs.Boot

open Sys2Proof Sys2Proof.Machine Sys2Proof.Proofs.Bus

/-! ### Memory -/

/-- An image in its range of `len` bytes, cut at its end; where it is shorter the bytes beyond it are as they were. -/
theorem rawRead_image {m : Memory} (hw : m.wf = true) {start : Addr} {len : Nat} (h : start.toNat + len ≤ 65536)
    (bs : List Byte) (a : Addr) :
    rawRead (rawWriteBytes m start (bs.take len)) a =
      if start.toNat ≤ a.toNat ∧ a.toNat < start.toNat + len then bs.getD (a.toNat - start.toNat) (rawRead m a)
      else rawRead m a := by
  have hlen : (bs.take len).length ≤ len := List.length_take_le len bs
  rw [rawRead_rawWriteBytes hw start (by omega)]
  rw [List.length_take] at hlen ⊢
  by_cases hin : start.toNat ≤ a.toNat ∧ a.toNat < start.toNat + len
  · rw [if_pos hin]
    by_cases hb : a.toNat - start.toNat < bs.length
    · rw [if_pos (by omega)]
      simp only [List.getD_eq_getElem?_getD, List.getElem?_take, if_pos (show a.toNat - start.toNat < len by omega),
        List.getElem?_eq_getElem hb, Option.getD_some]
    · rw [if_neg (by omega), List.getD_eq_default _ _ (by omega)]
  · rw [if_neg (by omega), if_neg hin]

/-- Memory at reset: the images in their ranges, 0 elsewhere. -/
theorem rawRead_romMemory (k : MachineCfg) (roms : RomImages) (a : Addr) :
    rawRead (romMemory k roms) a =
      if a.toNat < 0x8000 then 0
      else if a.toNat < 0x9000 then roms.char.getD (a.toNat - 0x8000) 0
      else if a.toNat < 0xA000 then 0
      else if a.toNat < 0xC000 then (if k.mem.cart = .rom then roms.cart.getD (a.toNat - 0xA000) 0 else 0)
      else if a.toNat < 0xE000 then roms.basic.getD (a.toNat - 0xC000) 0
      else roms.kernal.getD (a.toNat - 0xE000) 0 := by
  have h0 : Memory.wf [] = true := rfl
  have hz : rawRead [] a = 0 := rfl
  have h1 := rawWriteBytes_wf h0 0x8000 (roms.char.take 4096)
  have h2 := rawWriteBytes_wf h1 0xC000 (roms.basic.take 8192)
  have h3 := rawWriteBytes_wf h2 0xE000 (roms.kernal.take 8192)
  have hthree := rawRead_image h2 (start := 0xE000) (len := 8192) (by decide) roms.kernal a
  rw [rawRead_image h1 (start := 0xC000) (len := 8192) (by decide),
    rawRead_image h0 (start := 0x8000) (len := 4096) (by decide), hz] at hthree
  have hfour := rawRead_image h3 (start := 0xA000) (len := 8192) (by decide) roms.cart a
  rw [hthree] at hfour
  have hstarts : (0x8000 : Addr).toNat = 0x8000 ∧ (0xA000 : Addr).toNat = 0xA000 ∧ (0xC000 : Addr).toNat = 0xC000 ∧
      (0xE000 : Addr).toNat = 0xE000 := by decide
  have hbound := a.isLt
  have hranges : a.toNat < 0x8000 ∨ (0x8000 ≤ a.toNat ∧ a.toNat < 0x9000) ∨ (0x9000 ≤ a.toNat ∧ a.toNat < 0xA000) ∨
      (0xA000 ≤ a.toNat ∧ a.toNat < 0xC000) ∨ (0xC000 ≤ a.toNat ∧ a.toNat < 0xE000) ∨ 0xE000 ≤ a.toNat := by omega
  rw [romMemory]
  cases hk : k.mem.cart
  case rom =>
    simp only [hfour, hstarts, if_true]
    rcases hranges with h | h | h | h | h | h <;> simp (disch := omega) only [if_pos, if_neg]
  case ram | unconnected =>
    simp only [hthree, hstarts, reduceCtorEq, if_false]
    rcases hranges with h | h | h | h | h | h <;> simp (disch := omega) only [if_pos, if_neg]

/-! ### Boot -/

/-- The parameters and the memory of a boot. -/
def loaded (k : MachineCfg) (roms : RomImages) : Option ProgramLoad → MachineCfg × Memory
  | some p => applyProgram k (romMemory k roms) p
  | none => (k, romMemory k roms)

theorem boot_eq (k : MachineCfg) (roms : RomImages) (p : Option ProgramLoad) :
    boot k roms p none = resetWith (loaded k roms p).1 (loaded k roms p).2 := by
  cases p <;> rfl

theorem handler_resetWith (k : MachineCfg) (m : Memory) (a : Addr) : (resetWith k m).handler a = baseHandler k a := rfl

theorem peek_resetWith_rom {k : MachineCfg} {m : Memory} {a : Addr} (h : baseHandler k a = .rom a) :
    (resetWith k m).peek a = rawRead m a := by
  rw [State.peek, busRead, handler_resetWith, h]
  rfl

theorem boot_plain (k : MachineCfg) (roms : RomImages) : boot k roms none none = resetWith k (romMemory k roms) := rfl

theorem peek_boot_rom {k : MachineCfg} {a : Addr} (roms : RomImages) (h : baseHandler k a = .rom a) :
    (boot k roms none none).peek a = rawRead (romMemory k roms) a := peek_resetWith_rom h

theorem toNat_range {start n : Nat} (h : start + n < 65536) : (BitVec.ofNat 16 (start + n)).toNat = start + n := by
  rw [BitVec.toNat_ofNat, Nat.mod_eq_of_lt h]

/-- Settles O9. -/
theorem bootRegistersAndRom : Obligations.BootRegistersAndRom := by
  intro k roms
  refine ⟨fun p => ?_, fun n _ _ _ => ⟨fun h => ?_, fun h => ?_, fun h => ?_⟩, fun n hk h => ?_, fun a h => ?_⟩
  · dsimp only
    rw [boot_eq]
    exact ⟨rfl, rfl, rfl, rfl, rfl, rfl, rfl, rfl, rfl, rfl, rfl, rfl, rfl⟩
  · have ha := toNat_range (start := 0x8000) (n := n) (by omega)
    rw [peek_boot_rom roms (baseHandler_rom k (by omega)), rawRead_romMemory, ha]
    simp (disch := omega) only [if_pos, if_neg, Nat.add_sub_cancel_left]
  · have ha := toNat_range (start := 0xC000) (n := n) (by omega)
    rw [peek_boot_rom roms (baseHandler_rom k (by omega)), rawRead_romMemory, ha]
    simp (disch := omega) only [if_pos, if_neg, Nat.add_sub_cancel_left]
  · have ha := toNat_range (start := 0xE000) (n := n) (by omega)
    rw [peek_boot_rom roms (baseHandler_rom k (by omega)), rawRead_romMemory, ha]
    simp (disch := omega) only [if_neg, Nat.add_sub_cancel_left]
  · have ha := toNat_range (start := 0xA000) (n := n) (by omega)
    rw [peek_boot_rom roms (baseHandler_cartRom k hk (by omega)), rawRead_romMemory, ha, if_pos hk]
    simp (disch := omega) only [if_pos, if_neg, Nat.add_sub_cancel_left]
  · change rawRead (romMemory k roms) a = 0
    rw [rawRead_romMemory]
    rcases h with h | h | ⟨h, h', hk⟩
    · simp (disch := omega) only [if_pos]
    · simp (disch := omega) only [if_pos, if_neg]
    · rw [if_neg hk]
      simp (disch := omega) only [if_pos, if_neg]

/-- Settles O10. -/
theorem resetMachine : Obligations.ResetMachine := by
  refine ⟨fun _ => rfl, rfl, rfl, rfl, rfl, rfl, fun r => ?_⟩
  exact Vector.getElem_replicate r.isLt

/-! ### Program loads -/

theorem applyProgram_malformed {k : MachineCfg} {m : Memory} {p : ProgramLoad} (h : p.wellFormed = false) :
    applyProgram k m p = (k, m) := by
  unfold applyProgram
  rw [if_neg (by rw [h]; exact Bool.false_ne_true)]

theorem boot_malformed {k : MachineCfg} {roms : RomImages} {p : ProgramLoad} (h : p.wellFormed = false) :
    boot k roms (some p) none = boot k roms none none := by
  rw [boot_eq, boot_eq, loaded, loaded, applyProgram_malformed h]

/-- A cartridge changes the handlers of its range only. -/
theorem baseHandler_withCartridge (k : MachineCfg) {a : Addr} (h : ¬(0xA000 ≤ a.toNat ∧ a.toNat < 0xC000)) :
    baseHandler (withCartridge k) a = baseHandler k a := by
  by_cases hlow : a.toNat < 0xA000
  · rw [baseHandler, baseHandler]
    simp only [withCartridge, if_pos hlow]
    rfl
  · rw [baseHandler_rom _ (by omega), baseHandler_rom _ (by omega)]

/-- A RAM handler is that of the address's own cell. -/
def OwnRam (a : Addr) (h : Handler) : Prop := h.isRam = true → h = .ram a

theorem OwnRam.ite {a : Addr} {p : Prop} [Decidable p] {h h' : Handler} (hp : OwnRam a h) (hn : OwnRam a h') :
    OwnRam a (if p then h else h') := by
  split
  · exact hp
  · exact hn

theorem ownRam_optionalRam (b : Bool) (a : Addr) : OwnRam a (optionalRam b a) := by
  cases b <;> simp [OwnRam, optionalRam, Handler.isRam]

theorem ownRam_aliasHandler (chips : ChipSet) (a : Addr) : OwnRam a (aliasHandler chips a) := by
  obtain ⟨vic, via1, via2⟩ := chips
  cases vic <;> cases via1 <;> cases via2 <;> simp [OwnRam, aliasHandler, Handler.isRam]

theorem ownRam_baseHandler (k : MachineCfg) (a : Addr) : OwnRam a (baseHandler k a) := by
  have ram : OwnRam a (.ram a) := fun _ => rfl
  have opt (b : Bool) := ownRam_optionalRam b a
  have chips := ownRam_aliasHandler (ioDecodeAt k a) a
  have other {h : Handler} (hh : h.isRam = false) : OwnRam a h := fun hram => by rw [hh] at hram; nomatch hram
  unfold baseHandler
  refine .ite ram (.ite (opt _) (.ite (opt _) (.ite (opt _) (.ite ram (.ite (opt _) (.ite (opt _) (.ite (opt _) (.ite (other rfl)
    (.ite (other rfl) (.ite chips (.ite (other rfl) (.ite (other rfl) (.ite chips (.ite (other rfl) (.ite (other rfl)
    (.ite ?_ (other rfl)))))))))))))))))
  split
  · exact other rfl
  · exact ram
  · exact other rfl

theorem isRam_iff (k : MachineCfg) (a : Addr) : (baseHandler k a).isRam = true ↔ baseHandler k a = .ram a :=
  ⟨ownRam_baseHandler k a, fun h => by rw [h]; rfl⟩

theorem boot_cartridge (k : MachineCfg) (roms : RomImages) {bs : List Byte} (h : 1 ≤ bs.length ∧ bs.length ≤ 8192) :
    boot k roms (some (.cartridge bs)) none =
      resetWith (withCartridge k)
        (rawWriteBytes (romMemory k roms) 0xA000 (bs ++ List.replicate (8192 - bs.length) 0)) := by
  have hwf : (ProgramLoad.cartridge bs).wellFormed = true := by simp [ProgramLoad.wellFormed, h]
  rw [boot_eq, loaded]
  unfold applyProgram
  rw [if_pos hwf]

theorem boot_basic (k : MachineCfg) (roms : RomImages) {lo hi : Byte} {rest : List Byte}
    (h : (mk16 hi lo).toNat + rest.length ≤ 65536) :
    boot k roms (some (.basic (lo :: hi :: rest))) none =
      resetWith k (rawWriteBytes (romMemory k roms) (mk16 hi lo) rest) := by
  have hwf : (ProgramLoad.basic (lo :: hi :: rest)).wellFormed = true := decide_eq_true h
  rw [boot_eq, loaded]
  unfold applyProgram
  rw [if_pos hwf]

theorem boot_rawRam (k : MachineCfg) (roms : RomImages) {bs : List Byte} (h : bs.length ≤ 65536) :
    boot k roms (some (.rawRam bs)) none = resetWith k (loadRawRam k (romMemory k roms) 0 bs) := by
  have hwf : (ProgramLoad.rawRam bs).wellFormed = true := decide_eq_true h
  rw [boot_eq, loaded]
  unfold applyProgram
  rw [if_pos hwf]

theorem getD_padded (bs : List Byte) (n i : Nat) : (bs ++ List.replicate n 0).getD i 0 = bs.getD i 0 := by
  by_cases h : i < bs.length
  · exact List.getD_append bs _ 0 i h
  · rw [List.getD_append_right bs _ 0 i (by omega), List.getD_eq_getElem?_getD, List.getElem?_getD_replicate_default_eq,
      List.getD_eq_default _ _ (by omega)]

/-- What a cartridge leaves beside a boot without it. -/
theorem cartridge_leaves (k : MachineCfg) (roms : RomImages) {bs : List Byte} (h : 1 ≤ bs.length ∧ bs.length ≤ 8192)
    (a : Addr) :
    (0xA000 ≤ a.toNat ∧ a.toNat < 0xC000 →
      (boot k roms (some (.cartridge bs)) none).handler a = .rom a ∧
        (boot k roms (some (.cartridge bs)) none).peek a = bs.getD (a.toNat - 0xA000) 0) ∧
    (¬(0xA000 ≤ a.toNat ∧ a.toNat < 0xC000) →
      (boot k roms (some (.cartridge bs)) none).handler a = (boot k roms none none).handler a ∧
        rawRead (boot k roms (some (.cartridge bs)) none).mem a = rawRead (boot k roms none none).mem a) := by
  have hlen : (bs ++ List.replicate (8192 - bs.length) 0).length = 8192 := by simp; omega
  have hstart : (0xA000 : Addr).toNat = 0xA000 := rfl
  have hread := rawRead_rawWriteBytes (romMemory_wf k roms) 0xA000 (bs := bs ++ List.replicate (8192 - bs.length) 0)
    (by rw [hlen, hstart]; decide) a
  rw [hlen, hstart] at hread
  rw [boot_cartridge k roms h, boot_plain]
  refine ⟨fun hin => ?_, fun hout => ⟨baseHandler_withCartridge k hout, hread.trans (if_neg (by omega))⟩⟩
  have hrom := baseHandler_cartRom (withCartridge k) rfl hin
  exact ⟨hrom, (peek_resetWith_rom hrom).trans (hread.trans ((if_pos (by omega)).trans (getD_padded bs _ _)))⟩

/-- Settles O60, kind by kind. -/
theorem programLoadMemory : Obligations.ProgramLoadMemory := by
  intro k roms bs
  have hrom := romMemory_wf k roms
  refine ⟨fun h => cartridge_leaves k roms h, fun h => boot_malformed ?_, fun lo hi rest hbs => ⟨fun h a => ?_, fun h => ?_⟩,
    fun h => boot_malformed ?_, fun h a => ?_, fun h => boot_malformed (decide_eq_false (by omega))⟩
  · simpa [ProgramLoad.wellFormed] using h
  · subst hbs
    have hstart : (mk16 hi lo).toNat = 256 * hi.toNat + lo.toNat := by rw [mk16_toNat]; omega
    rw [boot_basic k roms (by omega)]
    refine ⟨rfl, ?_⟩
    rw [← hstart]
    exact rawRead_rawWriteBytes hrom _ (by omega) a
  · subst hbs
    have hstart : (mk16 hi lo).toNat = 256 * hi.toNat + lo.toNat := by rw [mk16_toNat]; omega
    exact boot_malformed (decide_eq_false (by omega))
  · match bs, h with
    | [], _ => rfl
    | [_], _ => rfl
  · rw [boot_rawRam k roms h]
    refine ⟨rfl, (rawRead_loadRawRam k hrom 0 (by simpa using h) a).trans ?_⟩
    have hzero : (0 : Addr).toNat = 0 := rfl
    rw [boot_plain, handler_resetWith]
    simp only [isRam_iff, hzero, Nat.zero_le, true_and, Nat.zero_add, Nat.sub_zero]
    rfl

end Sys2Proof.Proofs.Boot

/-! Loading a snapshot (rule R810). -/

namespace Sys2Proof.Proofs.SnapshotLoad

open Sys2Proof Sys2Proof.Machine

theorem loadSnapshot_malformed {n : Snapshot} {s : State} (h : n.wellFormed s.cfg = false) : loadSnapshot n s = s := by
  unfold loadSnapshot
  exact if_neg (by rw [h]; exact Bool.false_ne_true)

/-- A well-formed snapshot, field by field: the chips' pins end on the lines. -/
theorem loadSnapshot_eq {n : Snapshot} {s : State} (h : n.wellFormed s.cfg = true) :
    loadSnapshot n s =
      { s with
        mem := rawWriteBytes [] 0 n.image
        cpu := n.cpu s.cpu
        vic := n.vic s.cfg s.vic
        via1 := n.via1.load s.via1
        via2 := n.via2.load s.via2
        lines :=
          { irqLevel := (n.via2.load s.via2).pinLevel
            nmiLevel := (n.via1.load s.via1).pinLevel
            nmiPending := (n.via1.load s.via1).pinLevel && !s.lines.nmiLevel } } := by
  unfold loadSnapshot
  rw [if_pos h]
  rfl

/-- What the check of a snapshot says. -/
structure WellFormed (k : MachineCfg) (n : Snapshot) : Prop where
  image : n.image.length = 65536
  a : n.a < 256
  x : n.x < 256
  y : n.y < 256
  s : n.s < 256
  pc : n.pc < 65536
  via1 : n.via1.wellFormed = true
  via2 : n.via2.wellFormed = true
  hcount : n.hcount < k.variant.totalWidth
  vcount : n.vcount < k.variant.totalHeight

theorem wellFormed_of {k : MachineCfg} {n : Snapshot} (h : n.wellFormed k = true) : WellFormed k n := by
  simp only [Snapshot.wellFormed, Bool.and_eq_true, beq_iff_eq, decide_eq_true_eq, List.all_cons, List.all_nil, and_true] at h
  obtain ⟨⟨⟨⟨⟨⟨himage, ha, hx, hy, hs⟩, hpc⟩, hvia1⟩, hvia2⟩, hh⟩, hv⟩ := h
  exact ⟨himage, ha, hx, hy, hs, hpc, hvia1, hvia2, hh, hv⟩

theorem toNat_ofNat_byte {n : Nat} (h : n < 256) : (BitVec.ofNat 8 n).toNat = n := by
  rw [BitVec.toNat_ofNat, Nat.mod_eq_of_lt h]

theorem toNat_ofNat_word {n : Nat} (h : n < 65536) : (BitVec.ofNat 16 n).toNat = n := by
  rw [BitVec.toNat_ofNat, Nat.mod_eq_of_lt h]

theorem loadedIn_load {n : ViaSnapshot} (h : n.wellFormed = true) (v : Via) : n.LoadedIn (n.load v) := by
  simp only [ViaSnapshot.wellFormed, Bool.and_eq_true, decide_eq_true_eq, List.all_cons, List.all_nil, and_true] at h
  obtain ⟨⟨hora, horb, hddra, hddrb, ht2ll, hsr, hacr, hpcr, -, -⟩, ht1c, ht1l, ht2c⟩ := h
  have hpcr' := toNat_ofNat_byte hpcr
  refine ⟨toNat_ofNat_byte hora, toNat_ofNat_byte horb, toNat_ofNat_byte hddra, toNat_ofNat_byte hddrb, toNat_ofNat_word ht1c,
    toNat_ofNat_word ht1l, toNat_ofNat_word ht2c, toNat_ofNat_byte ht2ll, toNat_ofNat_byte hsr, toNat_ofNat_byte hacr, hpcr',
    BitVec.toNat_ofNat _ _, BitVec.toNat_ofNat _ _, rfl, rfl, rfl, rfl, rfl, ?_, ?_⟩
  · have hctl : (n.load v).ca2Out = decide ((BitVec.ofNat 8 n.pcr).toNat / 2 % 8 ≠ 6) := TimerRegisters.controlOut_ca2 _
    rw [hctl, hpcr']
    simp
  · have hctl : (n.load v).cb2Out = decide ((BitVec.ofNat 8 n.pcr).toNat / 32 ≠ 6) := TimerRegisters.controlOut_cb2 _
    rw [hctl, hpcr']
    simp

/-- The registers of the image. -/
theorem reg_vic (k : MachineCfg) (n : Snapshot) (v : Vic) (r : BitVec 4) :
    (n.vic k v).reg r = n.image.getD (0x9000 + r.toNat) 0 :=
  Vector.getElem_ofFn r.isLt

/-- The row counters are those of the line (rule R810 item 4). -/
theorem rowCounters_vic (k : MachineCfg) (n : Snapshot) (v : Vic) :
    let w := n.vic k v
    let g := w.geometry k
    let y : Int := n.vcount
    (g.top ≤ y ∧ y < g.bottom → (w.depth : Int) = (y - g.top) % g.h ∧ (w.rowBase : Int) = (y - g.top) / g.h * g.columns) ∧
      (y < g.top → w.depth = 0 ∧ w.rowBase = 0) ∧ (g.bottom ≤ y → w.depth = 0 ∧ w.rowBase = g.rows * g.columns) := by
  intro w g y
  have hdepth : w.depth = if decide (g.top ≤ y) && decide (y < g.bottom) then (y - g.top).toNat % g.h else 0 := rfl
  have hrow : w.rowBase = if decide (g.top ≤ y) && decide (y < g.bottom) then (y - g.top).toNat / g.h * g.columns
    else if g.bottom ≤ y then g.rows * g.columns else 0 := rfl
  have hin (h : g.top ≤ y ∧ y < g.bottom) : (decide (g.top ≤ y) && decide (y < g.bottom)) = true := by simpa using h
  have hbottom : g.top ≤ g.bottom := Int.le_add_of_nonneg_right (Int.natCast_nonneg _)
  refine ⟨fun h => ?_, fun h => ?_, fun h => ?_⟩
  · have hline : ((y - g.top).toNat : Int) = y - g.top := Int.toNat_of_nonneg (by omega)
    rw [hdepth, hrow, if_pos (hin h), if_pos (hin h)]
    push_cast
    rw [hline]
    exact ⟨rfl, rfl⟩
  · rw [hdepth, hrow, if_neg (by simp; omega), if_neg (by simp; omega), if_neg (by omega)]
    exact ⟨rfl, rfl⟩
  · rw [hdepth, hrow, if_neg (by simp; omega), if_neg (by simp; omega), if_pos h]
    exact ⟨rfl, rfl⟩

theorem inv_vic {k : MachineCfg} {n : Snapshot} (h : WellFormed k n) (v : Vic) : (n.vic k v).Inv k := by
  have hh := h.hcount
  exact ⟨Nat.mul_mod_left _ _, Nat.lt_of_le_of_lt (Nat.div_mul_le_self _ _) hh, h.vcount, rfl, rfl, rfl⟩

/-- Settles O11. -/
theorem snapshotLoad : Obligations.SnapshotLoad := by
  intro n s
  refine ⟨loadSnapshot_malformed, fun hwf => ?_⟩
  have h := wellFormed_of hwf
  rw [loadSnapshot_eq hwf]
  refine ⟨?_, ⟨rfl, rfl, fun a => ?_⟩, ⟨loadedIn_load h.via1 _, loadedIn_load h.via2 _⟩, ⟨rfl, rfl, rfl⟩, ?_, inv_vic h s.vic⟩
  · exact ⟨toNat_ofNat_byte h.a, toNat_ofNat_byte h.x, toNat_ofNat_byte h.y, toNat_ofNat_byte h.s, toNat_ofNat_word h.pc,
      rfl, rfl, rfl, rfl, rfl, rfl, rfl, rfl, rfl, rfl, rfl, rfl, rfl, rfl, rfl, rfl⟩
  · have hempty : Memory.wf [] = true := rfl
    have hzero : (0 : Addr).toNat = 0 := rfl
    have ha := a.isLt
    refine (rawRead_rawWriteBytes hempty 0 (by rw [h.image]; exact Nat.le_refl _) a).trans ?_
    rw [if_pos (by rw [h.image, hzero]; omega), hzero, Nat.sub_zero]
  · obtain ⟨hin, habove, hbelow⟩ := rowCounters_vic s.cfg n s.vic
    exact ⟨reg_vic s.cfg n s.vic, rfl, rfl, rfl, hin, habove, hbelow, fun _ => ⟨rfl, rfl⟩, rfl⟩

end Sys2Proof.Proofs.SnapshotLoad
